-- ==== Sys2Proof/Word.lean ====
section
/-! DEFINITION. The words of FLASHCTRL: bytes, 32-bit operand registers, 24-bit bus addresses. -/
namespace Sys2Proof

/-- One byte (00_scope R11). -/
abbrev Byte := BitVec 8

/-- A host operand register (10_state R23-R25). -/
abbrev Word := BitVec 32

/-- A bus address, ADDR_BITS = 24 (00_scope R8, 30_encoding R105). -/
abbrev BusAddr := BitVec 24

end Sys2Proof
end

