-- ==== Sys2Proof/Syntax.lean ====
section
/-! DEFINITION. The instructions: the 7 host operations and the 11 bus commands of spec/opcode_table.json,
and the two kinds of words that carry them: a CMD byte (30_encoding R100) and a transaction descriptor (R105). -/
namespace Sys2Proof

/-- Data lines of a transaction, `{1, 4}` (10_state R32, 30_encoding R105). -/
inductive Width
  | w1
  | w4
  deriving DecidableEq, Repr, Inhabited

/-- The instructions. A host operation has no operand of its own: it reads operand registers (10_state R27).
A bus command carries the fields of its descriptor that R110 leaves to the window, the payload or the index. -/
inductive Instr
  /-- INIT (41_init R160). -/
  | init
  /-- ERASE_CHIP (42_erase R181). -/
  | eraseChip
  /-- ERASE_SECTOR (42_erase R183). -/
  | eraseSector
  /-- ERASE_BLOCK32K (42_erase R184). -/
  | eraseBlock32K
  /-- ERASE_BLOCK64K (42_erase R185). -/
  | eraseBlock64K
  /-- READ (44_read R215). -/
  | read
  /-- PROGRAM (45_program R230). -/
  | program
  /-- RDID (40_bus_primitives R150). -/
  | rdid
  /-- WREN (40_bus_primitives R149). -/
  | wren
  /-- QPIEN (40_bus_primitives R151). -/
  | qpien
  /-- SRP (40_bus_primitives R152); its payload is the parameter READ_PARAM_VALUE. -/
  | srp
  /-- RDSR (40_bus_primitives R153). -/
  | rdsr
  /-- FRQIO at an address, receiving `n` bytes (40_bus_primitives R154). -/
  | frqio (a : BusAddr) (n : Nat)
  /-- PP at an address, sending bytes (40_bus_primitives R155). -/
  | pp (a : BusAddr) (tx : List Byte)
  /-- SER at an address (40_bus_primitives R156). -/
  | ser (a : BusAddr)
  /-- BE32K at an address (40_bus_primitives R157). -/
  | be32k (a : BusAddr)
  /-- BE64K at an address (40_bus_primitives R158). -/
  | be64k (a : BusAddr)
  /-- CER (40_bus_primitives R159). -/
  | cer
  deriving DecidableEq, Repr

/-- The seven-field transaction descriptor T (30_encoding R105). -/
structure Desc where
  w     : Width
  cmd   : Byte
  addr  : Option BusAddr
  alt   : Option Byte
  dummy : Nat
  tx    : List Byte
  rx    : Nat
  deriving DecidableEq, Repr

/-- The words of an instruction: what the host writes to CMD, or what the sequencer hands to the transport. -/
inductive Words
  | cmd  (b : Byte)
  | desc (t : Desc)
  deriving DecidableEq, Repr

end Sys2Proof
end

