-- ==== Sys2Proof/Config.lean ====
section
/-! DEFINITION. What an implementation fixes (00_scope R8, R9): the geometry, the OPEN parameters, and the draws
of the environment, with the opaque constants that stand for draws no list of State supplies. -/
namespace Sys2Proof

/-- CAPACITY, 8 MiB (00_scope R8). -/
abbrev capacity : Nat := 0x800000
/-- PAGE_SIZE (00_scope R8). -/
abbrev pageSize : Nat := 256
/-- SECTOR_SHIFT and SECTOR_SIZE (00_scope R8). -/
abbrev sectorShift : Nat := 12
abbrev sectorSize : Nat := 4096
/-- BLOCK32_SHIFT and BLOCK32_SIZE (00_scope R8). -/
abbrev block32Shift : Nat := 15
abbrev block32Size : Nat := 32768
/-- BLOCK64_SHIFT and BLOCK64_SIZE (00_scope R8). -/
abbrev block64Shift : Nat := 16
abbrev block64Size : Nat := 65536
/-- MAX_SECTOR_INDEX, MAX_BLOCK32_INDEX, MAX_BLOCK64_INDEX (00_scope R8). -/
abbrev maxSectorIndex : Nat := 2047
abbrev maxBlock32Index : Nat := 255
abbrev maxBlock64Index : Nat := 127
/-- READ_DUMMY_CYCLES (00_scope R8). -/
abbrev readDummyCycles : Nat := 8
/-- ALT_BYTE (00_scope R8, D6). -/
abbrev altByte : Byte := 0x00
/-- ID_LEN (00_scope R8). -/
abbrev idLen : Nat := 3
/-- OP_RDID, the one command byte the source gives (00_scope R8, 30_encoding R110). -/
abbrev opRdid : Byte := 0x9F
/-- What an erased byte of the array holds (20_memory R78). -/
abbrev erasedByte : Byte := 0xFF

/-- The identity tuple, in reception order (10_state R45, R36). -/
structure Ident where
  manufacturer : Byte
  device       : Byte
  capacity     : Byte
  deriving DecidableEq, Repr, Inhabited

/-- The OPEN parameters of 00_scope R8, and CHUNK, which 43_chunker R209 lets a model be given. -/
structure Config where
  chunk          : Nat
  opWren         : Byte
  opQpien        : Byte
  opSrp          : Byte
  opRdsr         : Byte
  opFrqio        : Byte
  opPp           : Byte
  opSer          : Byte
  opBe32k        : Byte
  opBe64k        : Byte
  opCer          : Byte
  expectedId     : Ident
  readParamValue : Byte
  maxPolls       : Option Nat
  maxIdleQueries : Option Nat
  deriving DecidableEq, Repr

/-- The values of 00_scope R8. PRESUMED (the spec's general-knowledge defaults) for the command bytes other than
RDID, EXPECTED_ID and READ_PARAM_VALUE; DESIGN CHOICE for the two bounds, for which R8 imposes none
(log entry 4). Unsafe only for a claim about this one configuration. -/
def Config.standard : Config where
  chunk          := 32
  opWren         := 0x06
  opQpien        := 0x35
  opSrp          := 0xC0
  opRdsr         := 0x05
  opFrqio        := 0xEB
  opPp           := 0x02
  opSer          := 0x20
  opBe32k        := 0x52
  opBe64k        := 0xD8
  opCer          := 0xC7
  expectedId     := ⟨0x9D, 0x60, 0x17⟩
  readParamValue := 0xF0
  maxPolls       := none
  maxIdleQueries := none

/-- The eleven command bytes, in the order of 30_encoding R110. -/
def Config.commandBytes (c : Config) : List Byte :=
  [opRdid, c.opWren, c.opQpien, c.opSrp, c.opRdsr, c.opFrqio, c.opPp, c.opSer, c.opBe32k, c.opBe64k, c.opCer]

/-- The constraints on the parameters that are not constants here: 00_scope R9 and 43_chunker R209 (CHUNK is at
least 1 and divides PAGE_SIZE), 30_encoding R112 (the command bytes are pairwise distinct), D7 and D8 (a bound is
at least 1). DESIGN CHOICE (log entry 36): a CHUNK of 1 or 2 is valid, as R9 and R209 admit it, and RDID then still
receives 3 bytes (R110), though R107 bounds every `T.rx` by CHUNK. -/
abbrev Config.Valid (c : Config) : Prop :=
  0 < c.chunk ∧ pageSize % c.chunk = 0 ∧ c.commandBytes.Nodup ∧ c.maxPolls ≠ some 0 ∧ c.maxIdleQueries ≠ some 0

/-- DEV_MODE (10_state R46). -/
inductive DevMode
  | spi1
  | qpi4
  deriving DecidableEq, Repr, Inhabited

/-- What became of a transaction that failed at the transport (20_memory R85, 60_exceptions R269): it never reached
the device, it was carried out, or the write it started was carried out in part. -/
inductive Reach
  | lost
  | applied
  | torn
  deriving DecidableEq, Repr, Inhabited

/-- The state of a device that the spec leaves unconstrained (20_memory R84, 70_reset R301): its registers, and which
unspecified content its array holds (`Config.freeContent`). -/
structure Scramble where
  sr        : Byte
  readParam : Byte
  mode      : DevMode
  content   : Nat
  deriving DecidableEq, Repr, Inhabited

/-- Everything the environment draws about one transaction.
* `fail`: the transport's `Err(e)` and what became of the transaction (40_bus_primitives R140; U10, U11, U19);
* `done`: the device's write in progress has completed by now (20_memory R82; U15);
* `answer`: bytes the transport returns whatever the device says (R140: the answer is a draw); none: the device's own;
* `rx`: the bytes of an answer the spec leaves open (R84, R307, U17, U21, U22, U29);
* `after`: the state of a device that the spec leaves unconstrained (R84, 70_reset R301);
* `ignores`: after an abort, a device with WIP = 1 ignores a command other than RDSR (R83), or is left unconstrained
  (70_reset R301); otherwise it ignores it, and nothing is drawn;
* `srpNeedsWel`, `srpClearsWel`, `srpSetsWip`, `qpienNeedsWel`: U31 and U32 (20_memory R80, R81). -/
structure TxDraw where
  fail          : Option (Nat × Reach)
  done          : Bool
  answer        : Option (List Byte)
  rx            : List Byte
  after         : Scramble
  ignores       : Bool
  srpNeedsWel   : Bool
  srpClearsWel  : Bool
  srpSetsWip    : Bool
  qpienNeedsWel : Bool
  deriving DecidableEq, Repr, Inhabited

/-- The answer of a busy query that no list supplies: a free value (40_bus_primitives R144; log entry 3). -/
opaque Config.freeBusy : Nat → Bool

/-- The draw of a transaction that no list supplies: a free value (40_bus_primitives R140; log entry 3). -/
opaque Config.freeTx : Nat → TxDraw

/-- Byte `a` of array content number `c`, where the spec leaves the content unspecified: at first power-up (10_state R47,
20_memory R86; number 0) and of a device left unconstrained (R84; a number drawn). A free value that persists until it is
erased (log entry 10). -/
opaque Config.freeContent : Nat → Nat → Byte

/-- A byte of BUF after a READ that failed (44_read R220): a free value, by draw number and byte index
(log entry 20). -/
opaque Config.freeByte : Nat → Nat → Byte

end Sys2Proof
end

