-- ==== Sys2Proof/WellFormed.lean ====
section
/-! DEFINITION. What the spec asks of an instruction as FLASHCTRL issues it: window lengths (30_encoding R107,
43_chunker R201), windows inside one page (R204), addresses inside the array (42_erase R182), aligned erase addresses
(20_memory R68). And the width each command is issued at (30_encoding R110). -/
namespace Sys2Proof

/-- The window length of FRQIO and PP: 1 to CHUNK (40_bus_primitives R154, R155). -/
abbrev WindowLen (c : Config) (n : Nat) : Prop := 1 ≤ n ∧ n ≤ c.chunk

/-- A window lies inside one page (43_chunker R204). -/
abbrev InOnePage (a n : Nat) : Prop := a % pageSize + n ≤ pageSize

/-- An erase address: a multiple of the unit, inside the array (42_erase R182). -/
abbrev UnitAddr (size a : Nat) : Prop := a % size = 0 ∧ a < capacity

/-- Well-formed instructions, for a configuration. -/
def wellFormed (c : Config) : Instr → Bool
  | .init | .eraseChip | .eraseSector | .eraseBlock32K | .eraseBlock64K | .read | .program => true
  | .rdid | .wren | .qpien | .srp | .rdsr | .cer => true
  | .frqio a n => decide (WindowLen c n ∧ a.toNat < capacity)
  | .pp a tx   => decide (WindowLen c tx.length ∧ InOnePage a.toNat tx.length ∧ a.toNat < capacity)
  | .ser a     => decide (UnitAddr sectorSize a.toNat)
  | .be32k a   => decide (UnitAddr block32Size a.toNat)
  | .be64k a   => decide (UnitAddr block64Size a.toNat)

/-- The widths an instruction's words may have: a bus command's column T.w of 30_encoding R110; a host operation has
no width. -/
def widthLegal (w : Width) : Instr → Bool
  | .rdid | .qpien => w == .w1
  | .srp | .frqio _ _ | .pp _ _ | .ser _ | .be32k _ | .be64k _ | .cer => w == .w4
  | .wren | .rdsr => true
  | .init | .eraseChip | .eraseSector | .eraseBlock32K | .eraseBlock64K | .read | .program => true

end Sys2Proof
end

