-- ==== Sys2Proof/Decode.lean ====
section
/-! DEFINITION. Decoding and encoding of both interfaces (30_encoding): the CMD byte (R100, R101, R103) and the
transaction descriptor (R105, R108, R110). Total; what is no instruction is rejected by name. -/
namespace Sys2Proof

/-- Why words are no instruction. -/
inductive DecodeError
  /-- CMD[7:4] is not zero (30_encoding R103). -/
  | reservedBits
  /-- OP is 0x0 or 0x8 to 0xF (30_encoding R103). -/
  | reservedOp
  /-- The command byte is none of the eleven (30_encoding R110, R111). -/
  | unknownCommand
  /-- The descriptor's fields do not have the command's format (30_encoding R108). -/
  | wrongFormat
  /-- The descriptor's width is not one the command is issued at (30_encoding R110). -/
  | wrongWidth
  /-- The operands are none FLASHCTRL issues (40_bus_primitives R154-R158). -/
  | illFormed
  deriving DecidableEq, Repr

/-- OP, CMD[3:0] (10_state R22). -/
def cmdOp (b : Byte) : BitVec 4 := b.extractLsb' 0 4

/-- The reserved field CMD[7:4] (10_state R22). -/
def cmdReserved (b : Byte) : BitVec 4 := b.extractLsb' 4 4

/-- Host decode of a CMD byte (30_encoding R101, R103). -/
def decodeCmd (b : Byte) : Except DecodeError Instr :=
  if cmdReserved b ≠ 0 then .error .reservedBits
  else if cmdOp b = 0x1 then .ok .init
  else if cmdOp b = 0x2 then .ok .eraseChip
  else if cmdOp b = 0x3 then .ok .eraseSector
  else if cmdOp b = 0x4 then .ok .eraseBlock32K
  else if cmdOp b = 0x5 then .ok .eraseBlock64K
  else if cmdOp b = 0x6 then .ok .read
  else if cmdOp b = 0x7 then .ok .program
  else .error .reservedOp

/-- The six transaction formats (30_encoding R108). -/
inductive Format
  | bCmd
  | bCmdRx (n : Nat)
  | bCmdTx
  | bCmdAddr
  | bCmdAddrTx
  | bCmdAddrAltDummyRx
  deriving DecidableEq, Repr

/-- The bus command names (30_encoding R110). -/
inductive BusName
  | rdid | wren | qpien | srp | rdsr | frqio | pp | ser | be32k | be64k | cer
  deriving DecidableEq, Repr

/-- The command a byte names, under a configuration (30_encoding R110, R112). -/
def busName? (c : Config) (b : Byte) : Option BusName :=
  if b = opRdid then some .rdid
  else if b = c.opWren then some .wren
  else if b = c.opQpien then some .qpien
  else if b = c.opSrp then some .srp
  else if b = c.opRdsr then some .rdsr
  else if b = c.opFrqio then some .frqio
  else if b = c.opPp then some .pp
  else if b = c.opSer then some .ser
  else if b = c.opBe32k then some .be32k
  else if b = c.opBe64k then some .be64k
  else if b = c.opCer then some .cer
  else none

/-- The format of each command (30_encoding R108, R110). -/
def busFormat : BusName → Format
  | .rdid => .bCmdRx 3
  | .rdsr => .bCmdRx 1
  | .wren | .qpien | .cer => .bCmd
  | .srp => .bCmdTx
  | .ser | .be32k | .be64k => .bCmdAddr
  | .pp => .bCmdAddrTx
  | .frqio => .bCmdAddrAltDummyRx

/-- Whether a descriptor's fields have a format (30_encoding R108). The payload length of PP and the window of FRQIO
are checked by `wellFormed`. -/
def hasFormat (f : Format) (t : Desc) : Bool :=
  match f with
  | .bCmd => t.addr.isNone && t.alt.isNone && t.dummy == 0 && t.tx.isEmpty && t.rx == 0
  | .bCmdRx n => t.addr.isNone && t.alt.isNone && t.dummy == 0 && t.tx.isEmpty && t.rx == n
  | .bCmdTx => t.addr.isNone && t.alt.isNone && t.dummy == 0 && t.tx.length == 1 && t.rx == 0
  | .bCmdAddr => t.addr.isSome && t.alt.isNone && t.dummy == 0 && t.tx.isEmpty && t.rx == 0
  | .bCmdAddrTx => t.addr.isSome && t.alt.isNone && t.dummy == 0 && t.rx == 0
  | .bCmdAddrAltDummyRx =>
      t.addr.isSome && t.alt == some altByte && t.dummy == readDummyCycles && t.tx.isEmpty

/-- The instruction of a descriptor whose command is known, fields read off (30_encoding R110). -/
def busInstr (n : BusName) (t : Desc) : Instr :=
  match n with
  | .rdid => .rdid
  | .wren => .wren
  | .qpien => .qpien
  | .srp => .srp
  | .rdsr => .rdsr
  | .frqio => .frqio (t.addr.getD 0) t.rx
  | .pp => .pp (t.addr.getD 0) t.tx
  | .ser => .ser (t.addr.getD 0)
  | .be32k => .be32k (t.addr.getD 0)
  | .be64k => .be64k (t.addr.getD 0)
  | .cer => .cer

/-- SRP's payload is the parameter READ_PARAM_VALUE and nothing else (40_bus_primitives R152). -/
def payloadLegal (c : Config) (n : BusName) (t : Desc) : Bool :=
  match n with
  | .srp => t.tx == [c.readParamValue]
  | _ => true

/-- Decode of a transaction descriptor (30_encoding R105-R110). -/
def decodeDesc (c : Config) (t : Desc) : Except DecodeError Instr :=
  match busName? c t.cmd with
  | none => .error .unknownCommand
  | some n =>
    if !hasFormat (busFormat n) t then .error .wrongFormat
    else if !widthLegal t.w (busInstr n t) then .error .wrongWidth
    else if !(wellFormed c (busInstr n t) && payloadLegal c n t) then .error .illFormed
    else .ok (busInstr n t)

/-- Decode of an instruction's words. -/
def decode (c : Config) : Words → Except DecodeError Instr
  | .cmd b => decodeCmd b
  | .desc t => decodeDesc c t

/-- A descriptor with every optional phase absent (40_bus_primitives section 2: "every descriptor field not named is
none, 0 or empty"). -/
def bareDesc (w : Width) (cmd : Byte) : Desc :=
  { w := w, cmd := cmd, addr := none, alt := none, dummy := 0, tx := [], rx := 0 }

/-- The words of an instruction: the CMD byte of a host operation (30_encoding R101), the descriptor of a bus command
at a width (R110; 40_bus_primitives R149-R159). -/
def encode (c : Config) (w : Width) : Instr → Words
  | .init => .cmd 0x01
  | .eraseChip => .cmd 0x02
  | .eraseSector => .cmd 0x03
  | .eraseBlock32K => .cmd 0x04
  | .eraseBlock64K => .cmd 0x05
  | .read => .cmd 0x06
  | .program => .cmd 0x07
  | .rdid => .desc { bareDesc w opRdid with rx := idLen }
  | .wren => .desc (bareDesc w c.opWren)
  | .qpien => .desc (bareDesc w c.opQpien)
  | .srp => .desc { bareDesc w c.opSrp with tx := [c.readParamValue] }
  | .rdsr => .desc { bareDesc w c.opRdsr with rx := 1 }
  | .frqio a n =>
      .desc { bareDesc w c.opFrqio with addr := some a, alt := some altByte, dummy := readDummyCycles, rx := n }
  | .pp a tx => .desc { bareDesc w c.opPp with addr := some a, tx := tx }
  | .ser a => .desc { bareDesc w c.opSer with addr := some a }
  | .be32k a => .desc { bareDesc w c.opBe32k with addr := some a }
  | .be64k a => .desc { bareDesc w c.opBe64k with addr := some a }
  | .cer => .desc (bareDesc w c.opCer)

/-- Bit `8 k` up of a number: its byte `k`, least significant first. -/
def byteOf (x k : Nat) : Byte := BitVec.ofNat 8 (x / 256 ^ k)

/-- The bytes of a descriptor in wire order (30_encoding R109): the command byte, the address most significant byte
first, the alternate byte, the sent bytes. The serial view is the spec's general knowledge; no rule depends on it. -/
def wireBytes (t : Desc) : List Byte :=
  [t.cmd] ++ (match t.addr with | some a => [byteOf a.toNat 2, byteOf a.toNat 1, byteOf a.toNat 0] | none => [])
    ++ (match t.alt with | some b => [b] | none => []) ++ t.tx

/-- The clock cycles each phase takes on the wire (30_encoding R109): 8/w per byte of the instruction, address,
alternate and data phases, and the dummy cycles. -/
def wireCycles (t : Desc) : Nat :=
  let perByte := match t.w with | .w1 => 8 | .w4 => 2
  perByte * ((wireBytes t).length + t.rx) + t.dummy

/-- The descriptor that a command byte of spec/opcode_table.json stands for when the table gives its operands no bits:
address 0, the shortest payload or window (one byte, 43_chunker R201), at the width the command is issued at.
DESIGN CHOICE (log entry 34). -/
def tableDesc (c : Config) (b : Byte) : Desc :=
  match busName? c b with
  | some .rdid => { bareDesc .w1 b with rx := 3 }
  | some .wren => bareDesc .w4 b
  | some .qpien => bareDesc .w1 b
  | some .srp => { bareDesc .w4 b with tx := [c.readParamValue] }
  | some .rdsr => { bareDesc .w4 b with rx := 1 }
  | some .frqio => { bareDesc .w4 b with addr := some 0, alt := some altByte, dummy := readDummyCycles, rx := 1 }
  | some .pp => { bareDesc .w4 b with addr := some 0, tx := [0] }
  | some .ser | some .be32k | some .be64k => { bareDesc .w4 b with addr := some 0 }
  | some .cer | none => bareDesc .w4 b

/-- The instruction of a word of spec/opcode_table.json. The table's rows are one byte each, on two interfaces that
share three codes (0x02, 0x05, 0x06): a byte that is a host operation's CMD code is read as that, any other as a bus
command byte of the standard configuration. DESIGN CHOICE (log entry 1). -/
def decodeTableWord (nbits w : Nat) : Option Instr :=
  if nbits = 8 ∧ w < 256 then
    match decodeCmd (BitVec.ofNat 8 w) with
    | .ok i => some i
    | .error _ => (decodeDesc Config.standard (tableDesc Config.standard (BitVec.ofNat 8 w))).toOption
  else none

end Sys2Proof
end

