-- ==== Sys2Proof/Machine/State.lean ====
section
/-! DEFINITION. Everything the spec gives the machine, as plain data (10_state), with the model's own fields beside
it: what the host and the environment do next, and the trace. And the machine right after reset (R50). -/
namespace Sys2Proof.Machine
open Sys2Proof

/-- Byte-addressed memory in canonical form: addresses strictly rising, no entry equal to what an unlisted address
reads as (`memWf` in Ops). -/
abbrev Mem := List Host.Cell

/-- LIFECYCLE (10_state R29); value 3 never occurs. -/
inductive Lifecycle
  | uninit
  | ready
  | initFailed
  deriving DecidableEq, Repr

/-- The two bits LIFECYCLE reads as (10_state R29). -/
def Lifecycle.bits : Lifecycle → BitVec 2
  | .uninit => 0
  | .ready => 1
  | .initFailed => 2

/-- The wait that ran out (30_encoding R121, TIMEOUT). -/
inductive Wait
  | poll
  | idle
  deriving DecidableEq, Repr

/-- RESULT.INFO (30_encoding R121). The transport's error value is opaque to FLASHCTRL: a number here (log entry 32). -/
inductive Info
  | none
  | transport (e : Nat) (cmd : Byte)
  | identity (id : Ident)
  | timeout (w : Wait)
  | lifecycle (l : Lifecycle)
  | command (b : Byte)
  deriving DecidableEq, Repr

/-- RESULT (10_state R31). -/
structure Result where
  code : Byte
  info : Info
  deriving DecidableEq, Repr

/-- The host operations as SEQ names them (10_state R33). -/
inductive Op
  | init
  | eraseChip
  | eraseSector
  | eraseBlock32K
  | eraseBlock64K
  | read
  | program
  deriving DecidableEq, Repr

/-- SEQ: IDLE, or the operation and the number of its next statement (10_state R33); the statements of each operation
are listed by `ruleOf` (Ops). -/
inductive Seq
  | idle
  | at (op : Op) (pc : Nat)
  deriving DecidableEq, Repr

/-- The statements that issue a bus command. -/
inductive BusStmt
  /-- `ID_BYTES <- Transact(RDID)` (41_init R160). -/
  | rdid
  /-- `WriteEnable()` (40_bus_primitives R149). -/
  | wren
  /-- `Transact(QPIEN)` (41_init R160). -/
  | qpien
  /-- `Transact(SRP)` (41_init R160). -/
  | srp
  /-- The status read of `PollWip()` (46_status_poll R250). -/
  | rdsr
  /-- The erase command of the operation (42_erase R180). -/
  | erase
  /-- `d <- Transact(FRQIO)` and `BUF[off .. off + wn) <- d` (44_read R215). -/
  | frqio
  /-- `Transact(PP)` (45_program R230). -/
  | pp
  deriving DecidableEq, Repr

/-- The statements of the operations' rules (41_init R160, 42_erase R180, 44_read R215, 45_program R230,
46_status_poll R250, 40_bus_primitives R145): each is one bus event or one internal check (00_scope R7). -/
inductive Stmt
  /-- A bus command. -/
  | issue (b : BusStmt)
  /-- `SetWidth(w)`. -/
  | setWidth (w : Width)
  /-- One query of `WaitIdle()`. -/
  | waitIdle
  /-- `if ID_BYTES != EXPECTED_ID: raise IdentityMismatch(ID_BYTES)`. -/
  | checkId
  /-- `if INDEX > MAX_INDEX: raise OutOfRange`. -/
  | checkIndex
  /-- `if ADDR + LEN >= CAPACITY: raise OutOfRange`. -/
  | checkRange
  /-- The head of `for (wa, wn, off) in Chunks(ADDR, LEN)`. -/
  | forWindow
  /-- The test of `PollWip()` after a status read. -/
  | pollTest
  /-- `LIFECYCLE <- READY; RESULT <- (OK, none)`. -/
  | finishInit
  /-- `RESULT <- (OK, none)`. -/
  | finish
  deriving DecidableEq, Repr

/-- A window: its device address, its byte count, its offset in BUF (43_chunker R200). -/
structure Window where
  addr : Nat
  len  : Nat
  off  : Nat
  deriving DecidableEq, Repr

/-- The window cursor: the list W and the index k (10_state R34). -/
structure Cursor where
  windows : List Window
  k       : Nat
  deriving DecidableEq, Repr

/-- A range of addresses. -/
structure Range where
  base : Nat
  size : Nat
  deriving DecidableEq, Repr

/-- One row of a protection map: while the protect bits hold `code`, the range is protected (10_state R43, U34). -/
structure ProtRow where
  code  : BitVec 4
  range : Range
  deriving DecidableEq, Repr

/-- Read-only facts of the attached chip: its identity (10_state R45), the dummy-cycle count each read-parameter byte
selects (30_encoding R114; a byte with no row selects an unknown count), and what the protect codes cover (U34). -/
structure Chip where
  ident      : Ident
  dummyTable : List (Byte × Nat)
  protMap    : List ProtRow
  deriving DecidableEq, Repr

/-- The write the device is carrying out while WIP = 1 (10_state R41, 20_memory R82). `other`: one with no effect on
the array left to come (SRP, R80; a write whose region is already unspecified). `unknown`: one of an unconstrained
device, of any region (R84). -/
inductive Pending
  | program (a : Nat) (bs : List Byte)
  | erase (r : Range)
  | other
  | unknown
  deriving DecidableEq, Repr

/-- The attached device (10_state section 5). ARRAY is four fields (log entries 10 and 19): a byte in a range of
`unerased` has not been erased since its content was last unspecified (R47, 20_memory R84), so it held byte
`Config.freeContent content` before any program, and 0xFF elsewhere; `array` is what has been programmed into each byte since, as one byte of AND (unlisted: nothing, 0xFF); a byte
in a range of `doubt` was erased or programmed in part and reads as unspecified until it is erased again (60_exceptions
R269). -/
structure Device where
  sr        : Byte
  readParam : Byte
  mode      : DevMode
  array     : Mem
  content   : Nat
  unerased  : List Range
  doubt     : List Range
  pending   : Option Pending
  chip      : Chip
  deriving DecidableEq, Repr

/-- The outcome of a transaction (20_memory R92). -/
inductive TxOutcome
  | ok (rx : List Byte)
  | err (e : Nat)
  deriving DecidableEq, Repr

/-- An entry of the observable (20_memory R92): the three bus events, and at an operation's end RESULT with, for READ,
BUF[0..LEN). -/
inductive Event
  | tx (t : Desc) (r : TxOutcome)
  | busy (b : Bool)
  | width (w : Width)
  | ended (r : Result) (buf : List Byte)
  deriving DecidableEq, Repr

/-- Registers a host can read (10_state R23-R26, R29-R32); CMD is write-only (R22). -/
inductive HostReg
  | addr
  | len
  | index
  | buf
  | lifecycle
  | ctrlBusy
  | result
  | busWidth
  deriving DecidableEq, Repr

/-- What a register read delivers to the host. -/
inductive HostValue
  | word (v : Word)
  | ref (a : Nat)
  | lifecycle (v : BitVec 2)
  | flag (b : Bool)
  | result (r : Result)
  | width (w : Width)
  deriving DecidableEq, Repr

/-- What the outside can do (30_encoding R102; 70_reset R290, R302, R309). `reset` carries what board-init left of the
transport (10_state R32, R39), `powerCycle` the device's status and read-parameter registers at power-up (U13): all are
unspecified by the spec. -/
inductive HostAction
  | writeCmd (b : Byte)
  | writeAddr (v : Word)
  | writeLen (v : Word)
  | writeIndex (v : Word)
  | writeBuf (a : Nat)
  | store (a : Nat) (bs : List Byte)
  | readReg (r : HostReg)
  | reset (w : Width) (transportBusy : Bool)
  | powerCycle (sr readParam : Byte)
  deriving DecidableEq, Repr

/-- The host's coming behaviour: act now; wait until CTRL_BUSY = 0; let one step go by (log entry 12). -/
inductive HostEvent
  | act (a : HostAction)
  | await
  | pass
  deriving DecidableEq, Repr

/-- Operand registers (10_state R28). -/
inductive Operand
  | addr
  | len
  | index
  | buf
  deriving DecidableEq, Repr

/-- Why the machine stops with a fault. -/
inductive Fault
  /-- An operand register that was never written is read: by the bounds and index checks, by the window statements, by
  a host read (10_state R28, R50, U4: the spec's own fault). Safe. -/
  | unsetOperand (r : Operand)
  /-- PP or an erase at an address past the array (20_memory R60); raised by execPp, execSer, execBe32k, execBe64k.
  Safe; FLASHCTRL never sends one (42_erase R182, 45_program R231). -/
  | addressOutsideArray
  /-- PP of more than PAGE_SIZE bytes (20_memory R76: not in source, never sent; U33); raised by execPp. Safe. -/
  | programTooLong
  /-- SEQ points outside the running rule; raised by the sequencer. 10_state R33 says it never does. Safe. -/
  | seqOutsideRule
  /-- A statement reads a hidden register that does not exist then (10_state R34-R37); raised by the sequencer.
  Unreachable from states that meet the invariant. Safe. -/
  | absentRegister
  deriving DecidableEq, Repr

/-- Why the model refuses to go on. -/
inductive Refusal
  /-- An instruction without a meaning, by its mnemonic; raised by an arm of exec. Safe. -/
  | notModelled (mnemonic : String)
  /-- CMD written while CTRL_BUSY = 1 (30_encoding R102, U5: the spec's own refusal); raised by the host operations
  and by the host port. Safe. -/
  | commandWhileBusy
  /-- ADDR, LEN, INDEX or BUF written while CTRL_BUSY = 1 (70_reset R304, U6); raised by the host port. Safe. -/
  | operandWhileBusy
  /-- The content of BUF changed while CTRL_BUSY = 1 (70_reset R304, U6); raised by the host port. Safe. -/
  | bufferWhileBusy
  /-- A configuration the spec refuses (43_chunker R209, U25; 00_scope R9; 30_encoding R112); raised by step. Safe. -/
  | badConfiguration
  deriving DecidableEq, Repr

/-- The state of the machine. -/
structure State where
  /-- CMD, the byte last written (10_state R22). -/
  cmd           : Byte
  /-- ADDR; none is the spec's "unset" (10_state R23, R28). -/
  addr          : Option Word
  /-- LEN (10_state R24, R28). -/
  len           : Option Word
  /-- INDEX (10_state R25, R28). -/
  index         : Option Word
  /-- BUF, the host address of byte 0 of the buffer (10_state R26, R28). -/
  buf           : Option Nat
  /-- LIFECYCLE (10_state R29). -/
  lifecycle     : Lifecycle
  /-- CTRL_BUSY (10_state R30). -/
  ctrlBusy      : Bool
  /-- RESULT (10_state R31). -/
  result        : Result
  /-- BUS_WIDTH (10_state R32). -/
  busWidth      : Width
  /-- SEQ (10_state R33). -/
  seq           : Seq
  /-- The window cursor; none: it does not exist (10_state R34). -/
  cursor        : Option Cursor
  /-- POLL_COUNT; none: it does not exist (10_state R35). -/
  pollCount     : Option Nat
  /-- IDLE_COUNT; none: it does not exist (10_state R35). -/
  idleCount     : Option Nat
  /-- ID_BYTES; none: it does not exist (10_state R36). -/
  idBytes       : Option Ident
  /-- SR_BYTE; none: it does not exist (10_state R37). -/
  srByte        : Option Byte
  /-- TRANSPORT_BUSY as the last query found it (10_state R39). -/
  transportBusy : Bool
  /-- Model's own: an operation was aborted, and no status read since has shown WIP = 0 (70_reset R301; log entry 16). -/
  afterAbort    : Bool
  /-- The attached device (10_state section 5). -/
  dev           : Device
  /-- The host's memory, where BUF points (10_state R26). -/
  hostMem       : Mem
  /-- Model's own: what the host does next (log entry 12). -/
  host          : List HostEvent
  /-- Model's own: what the last host register read delivered (log entry 35). -/
  hostRead      : Option HostValue
  /-- Model's own: the coming answers of busy queries (log entry 3). -/
  busyIn        : List Bool
  /-- Model's own: the coming draws of transactions (log entry 3). -/
  txIn          : List TxDraw
  /-- Model's own: free values taken so far (log entry 3). -/
  drawn         : Nat
  /-- Model's own: the observable (20_memory R92), oldest first. -/
  trace         : List Event
  /-- The parameters (00_scope R8); no step writes them (log entry 4). -/
  cfg           : Config
  deriving DecidableEq, Repr

/-- The chip of a machine right after reset. PRESUMED for the identity and the row of 0xF0 (the spec's G3 and G4),
DESIGN CHOICE for the empty protection map (log entries 9 and 18). Unsafe for a claim about this one chip. -/
def Chip.standard : Chip where
  ident      := ⟨0x9D, 0x60, 0x17⟩
  dummyTable := [(0xF0, 8)]
  protMap    := []

/-- The device of a machine right after reset: the spec leaves all of it unspecified (10_state R50). PRESUMED, the
family's power-up values (log entry 9); unsafe. The array lists nothing and every byte holds its unspecified power-up
content (log entry 10); safe. -/
def Device.standard : Device where
  sr        := 0x00
  readParam := 0xE0
  mode      := .spi1
  array     := []
  content   := 0
  unerased  := [⟨0, capacity⟩]
  doubt     := []
  pending   := none
  chip      := Chip.standard

/-- The machine right after reset (10_state R50, 70_reset R290). `cmd`, `busWidth` and `transportBusy` are DESIGN
CHOICE (log entries 6, 7, 8), unsafe; the model's own fields are empty (log entry 3). -/
def State.reset : State where
  cmd           := 0x00
  addr          := none
  len           := none
  index         := none
  buf           := none
  lifecycle     := .uninit
  ctrlBusy      := false
  result        := ⟨0x00, .none⟩
  busWidth      := .w1
  seq           := .idle
  cursor        := none
  pollCount     := none
  idleCount     := none
  idBytes       := none
  srByte        := none
  transportBusy := false
  afterAbort    := false
  dev           := Device.standard
  hostMem       := []
  host          := []
  hostRead      := none
  busyIn        := []
  txIn          := []
  drawn         := 0
  trace         := []
  cfg           := Config.standard

end Sys2Proof.Machine
end

