-- ==== Sys2Proof/Machine/Flags.lean ====
section
/-! DEFINITION. The flag computations: the fields of the device status register (10_state R40), and the codes and
checks that decide RESULT (30_encoding R120). -/
namespace Sys2Proof.Machine
open Sys2Proof

/-- WIP, bit 0 (10_state R40, 30_encoding R113). -/
def wip (sr : Byte) : Bool := sr.getLsbD 0
/-- WEL, bit 1. -/
def wel (sr : Byte) : Bool := sr.getLsbD 1
/-- BP3 to BP0, bits 5 to 2 (10_state R40, D19). -/
def protBits (sr : Byte) : BitVec 4 := sr.extractLsb' 2 4
/-- QE, bit 6. -/
def quadEnable (sr : Byte) : Bool := sr.getLsbD 6
/-- SRWD, bit 7. -/
def statusLock (sr : Byte) : Bool := sr.getLsbD 7

def setWip (sr : Byte) : Byte := sr ||| 0x01
def clearWip (sr : Byte) : Byte := sr &&& 0xFE
def setWel (sr : Byte) : Byte := sr ||| 0x02
def clearWel (sr : Byte) : Byte := sr &&& 0xFD

/-- RESULT.CODE values (30_encoding R120). -/
def codeOk : Byte := 0
def codeTransportError : Byte := 1
def codeIdentityMismatch : Byte := 2
def codeOutOfRange : Byte := 3
def codeTimeout : Byte := 4
def codeStateError : Byte := 5
def codeIllegalCommand : Byte := 6

/-- `ADDR + LEN >= CAPACITY` on unbounded naturals (44_read R216, 45_program R231, 00_scope R12). -/
def pastCapacity (a n : Word) : Bool := decide (capacity ≤ a.toNat + n.toNat)

/-- MAX_INDEX of an erase operation; ERASE_CHIP has none (42_erase R182). -/
def maxIndex : Op → Option Nat
  | .eraseSector => some maxSectorIndex
  | .eraseBlock32K => some maxBlock32Index
  | .eraseBlock64K => some maxBlock64Index
  | .init | .eraseChip | .read | .program => none

/-- `INDEX > MAX_INDEX` (42_erase R180, R187). -/
def pastIndex (op : Op) (n : Word) : Bool :=
  match maxIndex op with
  | some m => decide (m < n.toNat)
  | none => false

/-- A wait's bound is reached by `count` (40_bus_primitives R145, 46_status_poll R250). -/
def boundReached (bound : Option Nat) (count : Nat) : Bool :=
  match bound with
  | some k => decide (k ≤ count)
  | none => false

/-- Whether an operation is accepted in a LIFECYCLE (30_encoding R103). -/
def acceptedIn (op : Op) (l : Lifecycle) : Bool :=
  match op with
  | .init => l != .ready
  | .eraseChip | .eraseSector | .eraseBlock32K | .eraseBlock64K | .read | .program => l == .ready

/-- Whether an operation that raises this code may leave the device busy: one with a status poll, ended by TRANSPORT_ERROR
or TIMEOUT (70_reset R301; log entry 16). -/
def mayLeaveBusy (op : Option Op) (code : Byte) : Bool :=
  match op with
  | none | some .read => false
  | some .init | some .eraseChip | some .eraseSector | some .eraseBlock32K | some .eraseBlock64K | some .program =>
      code == codeTransportError || code == codeTimeout

end Sys2Proof.Machine
end

