-- ==== Sys2Proof/Machine/Ops.lean ====
section
/-! DEFINITION. The named operations over memory and registers: canonical memory, the environment's draws, SEQ and the
rules' statements (10_state R33), starting an operation (30_encoding R102), ending one, and raising an error, which is
this machine's taking of an exception (60_exceptions R267). There is no return from an error (R271). -/
namespace Sys2Proof.Machine
open Sys2Proof

/-! ### Memory in canonical form -/

/-- The canonical form of a memory whose unlisted bytes read as `d`. -/
abbrev memWf (d : Byte) (m : Mem) : Prop := m.Pairwise (fun x y => x.1 < y.1) ∧ ∀ c ∈ m, c.2 ≠ d

/-- Read one byte; an unlisted address reads as `d`. -/
def memGet (d : Byte) : Mem → Nat → Byte
  | [], _ => d
  | (k, v) :: m, a => if k = a then v else memGet d m a

/-- Write one byte, keeping the canonical form. -/
def memSet (d : Byte) : Mem → Nat → Byte → Mem
  | [], a, b => if b = d then [] else [(a, b)]
  | (k, v) :: m, a, b =>
      if a < k then (if b = d then (k, v) :: m else (a, b) :: (k, v) :: m)
      else if a = k then (if b = d then m else (a, b) :: m)
      else (k, v) :: memSet d m a b

/-- Write bytes at successive addresses. -/
def memWrite (d : Byte) (m : Mem) (a : Nat) : List Byte → Mem
  | [] => m
  | b :: bs => memWrite d (memSet d m a b) (a + 1) bs

/-- Read `n` bytes at successive addresses. -/
def memBytes (d : Byte) (m : Mem) (a n : Nat) : List Byte := (List.range n).map (fun i => memGet d m (a + i))

/-- Give the `n` bytes from `a` the values `f 0`, `f 1`, ... -/
def memFill (d : Byte) (m : Mem) (a n : Nat) (f : Nat → Byte) : Mem :=
  m.filter (fun c => decide (c.1 < a))
    ++ ((List.range n).map (fun i => (a + i, f i))).filter (fun c => c.2 != d)
    ++ m.filter (fun c => decide (a + n ≤ c.1))

/-- Let every byte at an address that `p` picks read as unlisted. -/
def memClear (m : Mem) (p : Nat → Bool) : Mem := m.filter (fun c => !p c.1)

/-- What an unlisted byte of the array reads as: erased (log entry 10). -/
abbrev arrayDefault : Byte := erasedByte

/-- What an unlisted byte of the host's memory reads as. DESIGN CHOICE, unsafe (log entry 11). -/
abbrev hostDefault : Byte := 0x00

/-! ### Draws of the environment (log entry 3) -/

/-- The answer of the next busy query (40_bus_primitives R144): the next one listed, or a free value. -/
def nextBusy (s : State) : Bool × State :=
  match s.busyIn with
  | b :: r => (b, { s with busyIn := r })
  | [] => (Config.freeBusy s.drawn, { s with drawn := s.drawn + 1 })

/-- The draw of the next transaction (40_bus_primitives R140): the next one listed, or a free value. -/
def nextTx (s : State) : TxDraw × State :=
  match s.txIn with
  | d :: r => (d, { s with txIn := r })
  | [] => (Config.freeTx s.drawn, { s with drawn := s.drawn + 1 })

/-- Bytes made exactly `n` long (40_bus_primitives R140: exactly `T.rx` bytes). A byte the draw does not supply is 0,
which no claim can lean on, since every longer draw is possible too (log entry 23). -/
def fitBytes (n : Nat) (bs : List Byte) : List Byte := (List.range n).map (fun j => bs.getD j 0)

/-! ### The trace (20_memory R92) -/

def logEvent (e : Event) (s : State) : State := { s with trace := s.trace ++ [e] }

/-- Whether a trace entry is a bus event. -/
def isBusEvent : Event → Bool
  | .tx _ _ | .busy _ | .width _ => true
  | .ended _ _ => false

/-- The bus events of a trace (20_memory R92). -/
def busEvents (t : List Event) : List Event := t.filter isBusEvent

/-! ### SEQ and the rules' statements (10_state R33) -/

/-- The statements after the range check that the four erases share (42_erase R180 with 46_status_poll R250). -/
def eraseTail : List Stmt := [.issue .wren, .waitIdle, .issue .erase, .issue .rdsr, .pollTest, .finish]

/-- The statements of each operation's rule, in text order: 41_init R160, 42_erase R180, 44_read R215,
45_program R230, with the calls of `WaitIdle` and `PollWip` written in place. -/
def ruleOf : Op → List Stmt
  | .init =>
      [.setWidth .w1, .issue .rdid, .waitIdle, .checkId, .issue .wren, .issue .qpien, .setWidth .w4, .issue .wren,
       .issue .srp, .issue .rdsr, .pollTest, .finishInit]
  | .eraseChip => eraseTail
  | .eraseSector | .eraseBlock32K | .eraseBlock64K => .checkIndex :: eraseTail
  | .read => [.checkRange, .forWindow, .waitIdle, .issue .frqio, .finish]
  | .program =>
      [.checkRange, .forWindow, .issue .wren, .waitIdle, .issue .pp, .issue .rdsr, .pollTest, .finish]

/-- The statement after statement `pc`: the next in text order, or the head of the window loop after the last statement
of its body (10_state R33). -/
def nextPc (op : Op) (pc : Nat) : Nat :=
  match op with
  | .read => if pc = 3 then 1 else pc + 1
  | .program => if pc = 6 then 1 else pc + 1
  | .init | .eraseChip | .eraseSector | .eraseBlock32K | .eraseBlock64K => pc + 1

/-- The statement past the window loop (10_state R33): the last of READ's and of PROGRAM's rule. -/
def loopExit (op : Op) : Nat := (ruleOf op).length - 1

/-- SEQ after the current statement. -/
def seqAfter : Seq → Seq
  | .idle => .idle
  | .at op pc => .at op (nextPc op pc)

/-- Advance SEQ. -/
def advance (s : State) : State := { s with seq := seqAfter s.seq }

/-- Set SEQ to a statement of the running operation. -/
def gotoPc (op : Op) (pc : Nat) (s : State) : State := { s with seq := .at op pc }

/-- The running operation. -/
def runningOp (s : State) : Option Op :=
  match s.seq with
  | .idle => none
  | .at op _ => some op

/-- The current window (10_state R34). -/
def currentWindow (s : State) : Option Window := s.cursor.bind (fun c => c.windows[c.k]?)

/-! ### Starting, ending, raising -/

/-- Start an operation: CTRL_BUSY <- 1 and SEQ at its first statement (30_encoding R102, 10_state R30, R33). -/
def startOp (op : Op) (s : State) : State := { s with ctrlBusy := true, seq := .at op 0 }

/-- BUF[0..LEN), the observable of a READ at its end, however it ends (20_memory R92); nothing for another operation, and
for a READ refused before the host has set BUF and LEN (log entry 25). -/
def endBuffer (op : Option Op) (s : State) : List Byte :=
  match op, s.buf, s.len with
  | some .read, some b, some n => memBytes hostDefault s.hostMem b n.toNat
  | _, _, _ => []

/-- End an operation: RESULT written, SEQ <- IDLE, CTRL_BUSY <- 0, and the registers that exist only while it runs gone
(30_encoding R102, 10_state R20, R30-R37). `op` is the operation that ends, for the observable. -/
def endOp (op : Option Op) (r : Result) (s : State) : State :=
  { s with
    result := r, ctrlBusy := false, seq := .idle, cursor := none, pollCount := none, idleCount := none,
    idBytes := none, srByte := none, trace := s.trace ++ [.ended r (endBuffer op s)] }

/-- BUF[off .. LEN) of a READ that fails at the window of offset `off` holds free values (44_read R220). -/
def spoilBuffer (s : State) : State :=
  match runningOp s, currentWindow s, s.buf, s.len with
  | some .read, some w, some b, some n =>
      { s with
        hostMem := memFill hostDefault s.hostMem (b + w.off) (n.toNat - w.off) (Config.freeByte s.drawn),
        drawn := s.drawn + 1 }
  | _, _, _, _ => s

/-- `raise E(info)` in a running operation (60_exceptions R267): RESULT <- (code, info); LIFECYCLE <- INIT_FAILED if INIT
runs; SEQ <- IDLE; CTRL_BUSY <- 0. That the device may be left busy is noted (70_reset R301). -/
def raiseError (code : Byte) (info : Info) (s : State) : State :=
  endOp (runningOp s) ⟨code, info⟩
    { spoilBuffer s with
      lifecycle := if runningOp s = some .init then .initFailed else s.lifecycle
      afterAbort := s.afterAbort || mayLeaveBusy (runningOp s) code }

/-- `raise E(info)` by the decode of CMD (30_encoding R103, 60_exceptions R267): no operation runs, so LIFECYCLE stays and
BUF is not touched. `op` is the operation refused, if the byte names one. -/
def rejectCommand (op : Option Op) (code : Byte) (info : Info) (s : State) : State := endOp op ⟨code, info⟩ s

/-- The host operations' common meaning, a write of their CMD code (30_encoding R102, R103): refused while CTRL_BUSY = 1
(70_reset R304); STATE_ERROR in the wrong LIFECYCLE; otherwise the operation starts. -/
def issueOp (op : Op) (s : State) : Host.Outcome State Fault Refusal :=
  if s.ctrlBusy then .refused .commandWhileBusy
  else if acceptedIn op s.lifecycle then .next (startOp op s)
  else .next (rejectCommand (some op) codeStateError (.lifecycle s.lifecycle) s)

end Sys2Proof.Machine
end

