-- ==== Sys2Proof/Machine/Operands.lean ====
section
/-! DEFINITION. The operand forms: which register an operation reads and what becomes of it (10_state R27, 30_encoding
R104): the unit address of an erase (42_erase R182) and the windows of READ and PROGRAM (43_chunker R200). -/
namespace Sys2Proof.Machine
open Sys2Proof

/-- Read an operand register. Reading one never written faults because the spec says so (10_state R28 "a model faults it
(it is not given a zero)", R50 "unset (reading one faults)"; D1; U4). -/
def operand {α : Type} (r : Operand) (v : Option α) : Except Fault α :=
  match v with
  | some x => .ok x
  | none => .error (.unsetOperand r)

/-- `Chunks` from the cursor `cur`, `off`, `rem`, with `fuel` at least the number of windows left (43_chunker R200). -/
def chunksFrom (chunk : Nat) : Nat → Nat → Nat → Nat → List Window
  | 0, _, _, _ => []
  | fuel + 1, cur, off, rem =>
      if rem = 0 then []
      else
        let n := min rem (chunk - cur % chunk)
        ⟨cur, n, off⟩ :: chunksFrom chunk fuel (cur + n) (off + n) (rem - n)

/-- `Chunks(a, n)` (43_chunker R200): every window holds at least one byte (R201), so n windows are enough. -/
def chunks (chunk a n : Nat) : List Window := chunksFrom chunk n a 0 n

/-- `page(a)` (20_memory R62). -/
def pageOf (a : Nat) : Nat := a - a % pageSize

/-- The device address of byte `i` of a program at `a`: the page wraps (20_memory R76). -/
def pageWrap (a i : Nat) : Nat := pageOf a + (a % pageSize + i) % pageSize

/-- The size exponent of an erase operation's unit (42_erase R182). -/
def unitShift : Op → Nat
  | .eraseSector => sectorShift
  | .eraseBlock32K => block32Shift
  | .eraseBlock64K => block64Shift
  | .init | .eraseChip | .read | .program => 0

/-- The unit address of an erase: INDEX shifted, as a 24-bit value (42_erase R182). -/
def unitAddr (op : Op) (index : Word) : BusAddr := BitVec.ofNat 24 (index.toNat <<< unitShift op)

/-- The region that an erase of `size` bytes at `a` sets to 0xFF: the low address bits do not count (20_memory R78). -/
def unitRange (size a : Nat) : Range := ⟨a - a % size, size⟩

/-- The bus command of an erase operation (42_erase R181-R185). -/
def eraseCommand (op : Op) (s : State) : Except Fault Instr :=
  match op with
  | .eraseSector => (operand .index s.index).map (fun n => .ser (unitAddr .eraseSector n))
  | .eraseBlock32K => (operand .index s.index).map (fun n => .be32k (unitAddr .eraseBlock32K n))
  | .eraseBlock64K => (operand .index s.index).map (fun n => .be64k (unitAddr .eraseBlock64K n))
  | .eraseChip => .ok .cer
  | .init | .read | .program => .error .seqOutsideRule

/-- The FRQIO of the current window (40_bus_primitives R154). READ reads the BUF reference (10_state R27). -/
def readCommand (s : State) : Except Fault Instr :=
  match currentWindow s with
  | none => .error .absentRegister
  | some w => (operand .buf s.buf).map (fun _ => .frqio (BitVec.ofNat 24 w.addr) w.len)

/-- The PP of the current window, its payload BUF[off .. off + wn) (40_bus_primitives R155). -/
def programCommand (s : State) : Except Fault Instr :=
  match currentWindow s with
  | none => .error .absentRegister
  | some w =>
      (operand .buf s.buf).map
        (fun b => .pp (BitVec.ofNat 24 w.addr) (memBytes hostDefault s.hostMem (b + w.off) w.len))

/-- The bus command that a statement of a running operation issues. -/
def busCommand (op : Op) (b : BusStmt) (s : State) : Except Fault Instr :=
  match b with
  | .rdid => .ok .rdid
  | .wren => .ok .wren
  | .qpien => .ok .qpien
  | .srp => .ok .srp
  | .rdsr => .ok .rdsr
  | .erase => eraseCommand op s
  | .frqio => readCommand s
  | .pp => programCommand s

end Sys2Proof.Machine
end

