-- ==== Sys2Proof/Machine/Device.lean ====
section
/-! DEFINITION. The attached device (20_memory section 4): what it does with a transaction, when a write completes, and
what stands in a byte of its array. -/
namespace Sys2Proof.Machine
open Sys2Proof

def inRange (r : Range) (a : Nat) : Bool := decide (r.base ≤ a) && decide (a < r.base + r.size)

/-- What is left of a range, `[lo, hi)` form, when another is taken out. -/
def rangeMinus (q r : Range) : List Range :=
  let lo := min (q.base + q.size) r.base
  let hi := max q.base (r.base + r.size)
  (if q.base < lo then [⟨q.base, lo - q.base⟩] else [])
    ++ (if hi < q.base + q.size then [⟨hi, q.base + q.size - hi⟩] else [])

/-- The common part of two ranges. -/
def rangeMeet (q r : Range) : List Range :=
  let lo := max q.base r.base
  let hi := min (q.base + q.size) (r.base + r.size)
  if lo < hi then [⟨lo, hi - lo⟩] else []

/-! ### Protection (10_state R43, 20_memory R83; log entries 17 and 18) -/

/-- The ranges that the block-protect bits cover; clear bits cover none (20_memory R83). -/
def protRanges (dev : Device) : List Range :=
  if protBits dev.sr = 0 then []
  else (dev.chip.protMap.filter (fun row => row.code == protBits dev.sr)).map (fun row => row.range)

/-- An address is protected. -/
def protectedAt (dev : Device) (a : Nat) : Bool := (protRanges dev).any (fun r => inRange r a)

/-- What is left of a range when every range of a list is taken out. -/
def rangeMinusAll (r : Range) (l : List Range) : List Range := l.foldl (fun ps q => ps.flatMap (rangeMinus · q)) [r]

/-- Every byte of a region is protected, by one range or by several together. -/
def protectedRange (dev : Device) (r : Range) : Bool := (rangeMinusAll r (protRanges dev)).isEmpty

/-- Every byte that a program would write is protected. -/
def protectedProgram (dev : Device) (a : Nat) (bs : List Byte) : Bool :=
  !(protRanges dev).isEmpty && (List.range bs.length).all (fun i => protectedAt dev (pageWrap a i))

/-! ### The array -/

/-- `MemWrite` (20_memory R76) from byte `i` on: AND, page wrap, protected bytes left alone. -/
def programBytes (prot : Nat → Bool) (m : Mem) (a i : Nat) : List Byte → Mem
  | [] => m
  | b :: bs =>
      let p := pageWrap a i
      programBytes prot
        (if prot p then m else memSet arrayDefault m p (memGet arrayDefault m p &&& b)) a (i + 1) bs

/-- Erase a region: 0xFF in every byte of it that is not protected (20_memory R78). -/
def eraseBytes (prot : Nat → Bool) (m : Mem) (r : Range) : Mem := memClear m (fun a => inRange r a && !prot a)

/-- What an erase of `r` leaves of ranges that only an erase ends: what was outside `r`, and what is protected
(60_exceptions R269). -/
def eraseRanges (dev : Device) (r : Range) (l : List Range) : List Range :=
  l.flatMap (fun q => rangeMinus q r ++ (protRanges dev).flatMap (rangeMeet q))

/-- What a byte held before any program since it was last erased: 0xFF, or, not erased since, the content that the spec
leaves unspecified (10_state R47, 20_memory R78, R84, R86; log entry 10). -/
def baseByte (dev : Device) (a : Nat) : Byte :=
  if dev.unerased.any (fun r => inRange r a) then Config.freeContent dev.content a else erasedByte

/-- ARRAY[a] (10_state R47): what it held, ANDed with everything programmed into it since (20_memory R76). -/
def arrayByte (dev : Device) (a : Nat) : Byte := baseByte dev a &&& memGet arrayDefault dev.array a

/-- The write in progress concerns an address (20_memory R82). -/
def pendingAt (p : Option Pending) (a : Nat) : Bool :=
  match p with
  | some (.program b bs) => (List.range bs.length).any (fun i => pageWrap b i == a)
  | some (.erase r) => inRange r a
  | some .unknown => true
  | some .other | none => false

/-- The byte of the array at an address; none where the spec leaves the device's answer unspecified: in a region being
written (20_memory R82, U23), and in one erased or programmed in part (60_exceptions R269, U21). -/
def deviceByte (dev : Device) (a : Nat) : Option Byte :=
  if pendingAt dev.pending a || dev.doubt.any (fun r => inRange r a) then none
  else some (arrayByte dev a)

/-- The write in progress completes: its effect on the array, and WIP = 0 (20_memory R77, R78, R82). -/
def completeWrite (dev : Device) : Device :=
  match dev.pending with
  | some (.program a bs) =>
      { dev with sr := clearWip dev.sr, pending := none, array := programBytes (protectedAt dev) dev.array a 0 bs }
  | some (.erase r) =>
      { dev with
        sr := clearWip dev.sr, pending := none, array := eraseBytes (protectedAt dev) dev.array r,
        unerased := eraseRanges dev r dev.unerased, doubt := eraseRanges dev r dev.doubt }
  | some .other | some .unknown | none => { dev with sr := clearWip dev.sr, pending := none }

/-- The device when a transaction reaches it: a write in progress may have completed (20_memory R82). -/
def settle (done : Bool) (dev : Device) : Device := if wip dev.sr && done then completeWrite dev else dev

/-- A write in progress of which nothing is known but its region: its bytes are unspecified until erased again
(60_exceptions R269, 70_reset R309; U21, U24). -/
def tearWrite (dev : Device) : Device :=
  match dev.pending with
  | some (.program a bs) =>
      { dev with
        pending := some .other,
        doubt := (List.range bs.length).map (fun i => ⟨pageWrap a i, 1⟩) ++ dev.doubt }
  | some (.erase r) => { dev with pending := some .other, doubt := r :: dev.doubt }
  | some .unknown => { dev with pending := some .other, doubt := ⟨0, capacity⟩ :: dev.doubt }
  | some .other | none => dev

/-- A device whose state is unconstrained (20_memory R84, 70_reset R301; log entry 15): registers drawn, WIP = 1 for a
write of any region, and an array of unspecified content. -/
def scramble (p : Scramble) (dev : Device) : Device :=
  { dev with
    sr := p.sr, readParam := p.readParam, mode := p.mode, array := [], content := p.content,
    unerased := [⟨0, capacity⟩], pending := if wip p.sr then some .unknown else none }

/-- The device after a power cycle (70_reset R295, R302, R309; U13, U24): single-line mode, its two registers unspecified,
the array kept but for the region of a write in progress (10_state R47). -/
def powerCycle (sr readParam : Byte) (dev : Device) : Device :=
  { tearWrite dev with
    sr := sr, readParam := readParam, mode := .spi1, pending := if wip sr then some .other else none }

/-! ### What each command does when it is understood (20_memory R71-R81, R83) -/

/-- A command's effect: from the draw and the device, the device after it and the bytes it answers. -/
abbrev DevEffect := TxDraw → Device → Device × List Byte

/-- The identity tuple as bytes (10_state R45). -/
def identBytes (id : Ident) : List Byte := [id.manufacturer, id.device, id.capacity]

/-- The identity tuple of three received bytes, in reception order (10_state R36). -/
def identOf (bs : List Byte) : Ident := ⟨bs.getD 0 0, bs.getD 1 0, bs.getD 2 0⟩

/-- RDID (20_memory R71). -/
def devRdid : DevEffect := fun _ dev => (dev, identBytes dev.chip.ident)

/-- WREN (20_memory R72). -/
def devWren : DevEffect := fun _ dev => ({ dev with sr := setWel dev.sr }, [])

/-- QPIEN (20_memory R81); whether it needs WEL is a draw (U32; log entry 14). -/
def devQpien : DevEffect := fun d dev =>
  (if d.qpienNeedsWel && !wel dev.sr then dev else { dev with mode := .qpi4 }, [])

/-- SRP with payload `r` (20_memory R80); what R80 leaves open is drawn (U31; log entry 14). -/
def devSrp (r : Byte) : DevEffect := fun d dev =>
  if d.srpNeedsWel && !wel dev.sr then (dev, [])
  else
    let sr1 := if d.srpClearsWel then clearWel dev.sr else dev.sr
    ({ dev with
       readParam := r, sr := if d.srpSetsWip then setWip sr1 else sr1,
       pending := if d.srpSetsWip then some .other else dev.pending }, [])

/-- RDSR (20_memory R73). -/
def devRdsr : DevEffect := fun _ dev => (dev, [dev.sr])

/-- The dummy-cycle count the read-parameter register selects is the one FRQIO carries (70_reset R307). -/
def dummyAgrees (dev : Device) : Bool := dev.chip.dummyTable.lookup dev.readParam == some readDummyCycles

/-- FRQIO at `a`, `n` bytes (20_memory R74, R75): the array, modulo CAPACITY; a byte the spec leaves unspecified, and
every byte where the dummy counts disagree (70_reset R307, U29), is drawn. -/
def devFrqio (a n : Nat) : DevEffect := fun d dev =>
  (dev, (List.range n).map (fun j =>
    if dummyAgrees dev then (deviceByte dev ((a + j) % capacity)).getD (d.rx.getD j 0) else d.rx.getD j 0))

/-- A write-class command is accepted: WEL cleared, WIP set, the write in progress (20_memory R77, R78). -/
def acceptWrite (p : Pending) (dev : Device) : Device :=
  { dev with sr := setWip (clearWel dev.sr), pending := some p }

/-- PP at `a` (20_memory R77); accepted when WEL = 1 and its bytes are not all protected (R83). -/
def devPp (a : Nat) (bs : List Byte) : DevEffect := fun _ dev =>
  (if wel dev.sr && !protectedProgram dev a bs then acceptWrite (.program a bs) dev else dev, [])

/-- An erase of a region (20_memory R78); accepted when WEL = 1 and the region is not all protected (R83). -/
def devErase (r : Range) : DevEffect := fun _ dev =>
  (if wel dev.sr && !protectedRange dev r then acceptWrite (.erase r) dev else dev, [])

/-! ### A transaction at the device -/

/-- The width a device understands (20_memory R70, 10_state R46). -/
def modeWidth : DevMode → Width
  | .spi1 => .w1
  | .qpi4 => .w4

/-- A transaction reaches a settled device: not understood at the wrong width (20_memory R84); ignored while WIP = 1
unless it is RDSR (`anytime`; R73, R83), but after an abort (`aborted`) the device may be left unconstrained instead
(70_reset R301; log entry 16); otherwise the command's effect. -/
def receive (d : TxDraw) (w : Width) (anytime aborted : Bool) (eff : DevEffect) (dev : Device) : Device × List Byte :=
  if w ≠ modeWidth dev.mode then (scramble d.after dev, d.rx)
  else if wip dev.sr && !anytime then (if aborted && !d.ignores then scramble d.after dev else dev, d.rx)
  else eff d dev

/-- The device after a transaction that failed at the transport (20_memory R85, 60_exceptions R269; log entry 19):
`dev` before it, `after` had it been carried out. Only a write that the transaction itself started can be torn. -/
def afterFailure (r : Reach) (dev after : Device) : Device :=
  match r with
  | .lost => dev
  | .applied => after
  | .torn => if wip dev.sr || after.pending == some .unknown then after else tearWrite after

end Sys2Proof.Machine
end

