-- ==== Sys2Proof/Machine/Bus.lean ====
section
/-! DEFINITION. `Transact` (40_bus_primitives R140-R143): one shared operation that every bus command's meaning is. -/
namespace Sys2Proof.Machine
open Sys2Proof

/-- The descriptor of a bus command at a width (40_bus_primitives R142, R149-R159). -/
def descriptor (c : Config) (w : Width) (i : Instr) : Desc :=
  match encode c w i with
  | .desc t => t
  | .cmd b => bareDesc w b

/-- The device after the transaction, and the outcome the transport returns (40_bus_primitives R140, 20_memory R85). -/
def transactDevice (d : TxDraw) (t : Desc) (anytime aborted : Bool) (eff : DevEffect) (dev : Device) :
    Device × TxOutcome :=
  let now := settle d.done dev
  let after := receive d t.w anytime aborted eff now
  match d.fail with
  | some (e, r) => (afterFailure r now after.1, .err e)
  | none => (after.1, .ok (fitBytes t.rx (d.answer.getD after.2)))

/-- The state with a transaction's draw taken, its event logged and the device as it leaves it. -/
def afterTransact (t : Desc) (anytime : Bool) (eff : DevEffect) (s : State) : State :=
  let r := transactDevice (nextTx s).1 t anytime s.afterAbort eff s.dev
  logEvent (.tx t r.2) { (nextTx s).2 with dev := r.1 }

/-- `Transact` of a bus command: on `Ok(rx)` the bytes go where the statement puts them (`recv`) and SEQ advances; on
`Err(e)` TransportError is raised with the command byte, and nothing is retried (40_bus_primitives R140, R141;
60_exceptions R261). -/
def transact (i : Instr) (anytime : Bool) (eff : DevEffect) (recv : List Byte → State → State) (s : State) : State :=
  let t := descriptor s.cfg s.busWidth i
  match (transactDevice (nextTx s).1 t anytime s.afterAbort eff s.dev).2 with
  | .ok rx => advance (recv rx (afterTransact t anytime eff s))
  | .err e => raiseError codeTransportError (.transport e t.cmd) (afterTransact t anytime eff s)

/-- Received bytes that no register takes. -/
def recvNothing (_ : List Byte) (s : State) : State := s

/-- `ID_BYTES <- rx` (41_init R162). -/
def recvIdent (rx : List Byte) (s : State) : State := { s with idBytes := some (identOf rx) }

/-- `SR_BYTE <- rx[0]` (46_status_poll R250). WIP = 0 shows that an aborted write is over (70_reset R301). -/
def recvStatus (rx : List Byte) (s : State) : State :=
  { s with srByte := some (rx.getD 0 0), afterAbort := s.afterAbort && wip (rx.getD 0 0) }

/-- `BUF[off .. off + wn) <- rx` for the current window of a running READ (44_read R215, R218); outside READ there is
no window to receive. -/
def recvWindow (rx : List Byte) (s : State) : State :=
  match runningOp s, currentWindow s, s.buf with
  | some .read, some w, some b => { s with hostMem := memWrite hostDefault s.hostMem (b + w.off) rx }
  | _, _, _ => s

end Sys2Proof.Machine
end

