-- ==== Sys2Proof/Machine/BusCommands.lean ====
section
/-! DEFINITION. The bus commands (40_bus_primitives R149-R159): each is one transaction, with the device's response
(20_memory R71-R84). -/
namespace Sys2Proof.Machine
open Sys2Proof

/-- RDID (R150; 20_memory R71): the identity goes to ID_BYTES. -/
def execRdid (s : State) : Host.Outcome State Fault Refusal := .next (transact .rdid false devRdid recvIdent s)

/-- WREN (R149; 20_memory R72). -/
def execWren (s : State) : Host.Outcome State Fault Refusal := .next (transact .wren false devWren recvNothing s)

/-- QPIEN (R151; 20_memory R81). -/
def execQpien (s : State) : Host.Outcome State Fault Refusal := .next (transact .qpien false devQpien recvNothing s)

/-- SRP (R152; 20_memory R80): the payload is READ_PARAM_VALUE. -/
def execSrp (s : State) : Host.Outcome State Fault Refusal :=
  .next (transact .srp false (devSrp s.cfg.readParamValue) recvNothing s)

/-- RDSR (R153; 20_memory R73): the status byte goes to SR_BYTE. It is understood while WIP = 1. -/
def execRdsr (s : State) : Host.Outcome State Fault Refusal := .next (transact .rdsr true devRdsr recvStatus s)

/-- FRQIO (R154; 20_memory R74, R75): the bytes go to BUF at the current window's offset. -/
def execFrqio (a : BusAddr) (n : Nat) (s : State) : Host.Outcome State Fault Refusal :=
  .next (transact (.frqio a n) false (devFrqio a.toNat n) recvWindow s)

/-- PP (R155; 20_memory R76, R77). An address past the array and a payload longer than a page have no effect in the
spec (20_memory R60, R76): a fault. -/
def execPp (a : BusAddr) (tx : List Byte) (s : State) : Host.Outcome State Fault Refusal :=
  if capacity ≤ a.toNat then .fault .addressOutsideArray
  else if pageSize < tx.length then .fault .programTooLong
  else .next (transact (.pp a tx) false (devPp a.toNat tx) recvNothing s)

/-- SER (R156; 20_memory R78). -/
def execSer (a : BusAddr) (s : State) : Host.Outcome State Fault Refusal :=
  if capacity ≤ a.toNat then .fault .addressOutsideArray
  else .next (transact (.ser a) false (devErase (unitRange sectorSize a.toNat)) recvNothing s)

/-- BE32K (R157; 20_memory R78). -/
def execBe32k (a : BusAddr) (s : State) : Host.Outcome State Fault Refusal :=
  if capacity ≤ a.toNat then .fault .addressOutsideArray
  else .next (transact (.be32k a) false (devErase (unitRange block32Size a.toNat)) recvNothing s)

/-- BE64K (R158; 20_memory R78). -/
def execBe64k (a : BusAddr) (s : State) : Host.Outcome State Fault Refusal :=
  if capacity ≤ a.toNat then .fault .addressOutsideArray
  else .next (transact (.be64k a) false (devErase (unitRange block64Size a.toNat)) recvNothing s)

/-- CER (R159; 20_memory R78): the whole array. -/
def execCer (s : State) : Host.Outcome State Fault Refusal :=
  .next (transact .cer false (devErase ⟨0, capacity⟩) recvNothing s)

end Sys2Proof.Machine
end

