-- ==== Sys2Proof/Machine/HostOps.lean ====
section
/-! DEFINITION. The host operations (30_encoding R101): each is the write of its CMD code. It starts the operation's
rule, whose statements the sequencer then takes one a step (00_scope R7, 10_state R33; log entry 2). -/
namespace Sys2Proof.Machine
open Sys2Proof

/-- INIT (41_init R160, R170). -/
def execInit (s : State) : Host.Outcome State Fault Refusal := issueOp .init s

/-- ERASE_CHIP (42_erase R181). -/
def execEraseChip (s : State) : Host.Outcome State Fault Refusal := issueOp .eraseChip s

/-- ERASE_SECTOR (42_erase R183). -/
def execEraseSector (s : State) : Host.Outcome State Fault Refusal := issueOp .eraseSector s

/-- ERASE_BLOCK32K (42_erase R184). -/
def execEraseBlock32K (s : State) : Host.Outcome State Fault Refusal := issueOp .eraseBlock32K s

/-- ERASE_BLOCK64K (42_erase R185). -/
def execEraseBlock64K (s : State) : Host.Outcome State Fault Refusal := issueOp .eraseBlock64K s

/-- READ (44_read R215). -/
def execRead (s : State) : Host.Outcome State Fault Refusal := issueOp .read s

/-- PROGRAM (45_program R230). -/
def execProgram (s : State) : Host.Outcome State Fault Refusal := issueOp .program s

end Sys2Proof.Machine
end

