-- ==== Sys2Proof/Machine/Dispatch.lean ====
section
/-! DEFINITION. One arm per instruction. -/
namespace Sys2Proof.Machine
open Sys2Proof

def exec (i : Instr) (s : State) : Host.Outcome State Fault Refusal :=
  match i with
  -- host operations
  | .init => Sys2Proof.Machine.execInit s
  | .eraseChip => Sys2Proof.Machine.execEraseChip s
  | .eraseSector => Sys2Proof.Machine.execEraseSector s
  | .eraseBlock32K => Sys2Proof.Machine.execEraseBlock32K s
  | .eraseBlock64K => Sys2Proof.Machine.execEraseBlock64K s
  | .read => Sys2Proof.Machine.execRead s
  | .program => Sys2Proof.Machine.execProgram s
  -- bus commands
  | .rdid => Sys2Proof.Machine.execRdid s
  | .wren => Sys2Proof.Machine.execWren s
  | .qpien => Sys2Proof.Machine.execQpien s
  | .srp => Sys2Proof.Machine.execSrp s
  | .rdsr => Sys2Proof.Machine.execRdsr s
  | .frqio a n => Sys2Proof.Machine.execFrqio a n s
  | .pp a tx => Sys2Proof.Machine.execPp a tx s
  | .ser a => Sys2Proof.Machine.execSer a s
  | .be32k a => Sys2Proof.Machine.execBe32k a s
  | .be64k a => Sys2Proof.Machine.execBe64k a s
  | .cer => Sys2Proof.Machine.execCer s

end Sys2Proof.Machine
end

