-- ==== Sys2Proof/Machine/HostPort.lean ====
section
/-! DEFINITION. The host's side (30_encoding R102, R103; 70_reset R290, R304): what a host action does. -/
namespace Sys2Proof.Machine
open Sys2Proof

/-- A write of CMD (30_encoding R102, R103): refused while CTRL_BUSY = 1; else decoded, and the instruction run, or
ILLEGAL_COMMAND raised. -/
def writeCommand (b : Byte) (s : State) : Host.Outcome State Fault Refusal :=
  if s.ctrlBusy then .refused .commandWhileBusy
  else
    match decodeCmd b with
    | .ok i => exec i { s with cmd := b }
    | .error _ => .next (rejectCommand none codeIllegalCommand (.command b) { s with cmd := b })

/-- A write of an operand register (10_state R23-R26), refused while CTRL_BUSY = 1 (70_reset R304). -/
def writeOperand (s t : State) : Host.Outcome State Fault Refusal :=
  if s.ctrlBusy then .refused .operandWhileBusy else .next t

/-- A host store of `n` bytes at `a` touches BUF[0..LEN). -/
def touchesBuffer (s : State) (a n : Nat) : Bool :=
  match s.buf, s.len with
  | some b, some m => decide (0 < n ∧ 0 < m.toNat ∧ a < b + m.toNat ∧ b < a + n)
  | _, _ => false

/-- A store of the host into its own memory; one into BUF[0..LEN) is refused while CTRL_BUSY = 1 (70_reset R304). -/
def hostStore (a : Nat) (bs : List Byte) (s : State) : Host.Outcome State Fault Refusal :=
  if s.ctrlBusy && touchesBuffer s a bs.length then .refused .bufferWhileBusy
  else .next { s with hostMem := memWrite hostDefault s.hostMem a bs }

/-- What a register read delivers; an unset operand register faults (10_state R28, R50). -/
def hostReadValue (r : HostReg) (s : State) : Except Fault HostValue :=
  match r with
  | .addr => (operand .addr s.addr).map .word
  | .len => (operand .len s.len).map .word
  | .index => (operand .index s.index).map .word
  | .buf => (operand .buf s.buf).map .ref
  | .lifecycle => .ok (.lifecycle s.lifecycle.bits)
  | .ctrlBusy => .ok (.flag s.ctrlBusy)
  | .result => .ok (.result s.result)
  | .busWidth => .ok (.width s.busWidth)

/-- A register read, allowed at any time (D17: the host polls CTRL_BUSY). -/
def readRegister (r : HostReg) (s : State) : Host.Outcome State Fault Refusal :=
  match hostReadValue r s with
  | .ok v => .next { s with hostRead := some v }
  | .error f => .fault f

/-- Reset of FLASHCTRL (70_reset R290): every register to its reset value (10_state R50), BUS_WIDTH and TRANSPORT_BUSY
to what board-init left; the device is not touched and no bus event happens. -/
def resetController (w : Width) (busy : Bool) (s : State) : State :=
  { s with
    cmd := State.reset.cmd, addr := none, len := none, index := none, buf := none, lifecycle := .uninit,
    ctrlBusy := false, result := ⟨codeOk, .none⟩, busWidth := w, seq := .idle, cursor := none, pollCount := none,
    idleCount := none, idBytes := none, srByte := none, transportBusy := busy }

/-- What a host action does. -/
def hostAct (a : HostAction) (s : State) : Host.Outcome State Fault Refusal :=
  match a with
  | .writeCmd b => writeCommand b s
  | .writeAddr v => writeOperand s { s with addr := some v }
  | .writeLen v => writeOperand s { s with len := some v }
  | .writeIndex v => writeOperand s { s with index := some v }
  | .writeBuf b => writeOperand s { s with buf := some b }
  | .store b bs => hostStore b bs s
  | .readReg r => readRegister r s
  | .reset w busy => .next (resetController w busy s)
  | .powerCycle sr readParam => .next { s with dev := powerCycle sr readParam s.dev }

end Sys2Proof.Machine
end

