-- ==== Sys2Proof/Machine/Sequencer.lean ====
section
/-! DEFINITION. The command sequencer (00_scope R2, 10_state R33): a step takes the running operation's next statement,
a bus command through `exec`, a busy query, a width switch or an internal check (00_scope R7). -/
namespace Sys2Proof.Machine
open Sys2Proof

/-- `SetWidth(w)` (40_bus_primitives R147). -/
def stepSetWidth (w : Width) (s : State) : State := advance (logEvent (.width w) { s with busWidth := w })

/-- The state after a busy query: TRANSPORT_BUSY as drawn, and the event (40_bus_primitives R144, 10_state R39). -/
def queryBusy (s : State) : State :=
  logEvent (.busy (nextBusy s).1) { (nextBusy s).2 with transportBusy := (nextBusy s).1 }

/-- One query of `WaitIdle()` (40_bus_primitives R145): the first finds IDLE_COUNT absent and starts it at 0 (10_state
R35); idle ends the wait; busy counts, and the bound raises TIMEOUT(IDLE). -/
def stepWaitIdle (s : State) : State :=
  let t := queryBusy s
  let n := s.idleCount.getD 0 + 1
  if !t.transportBusy then advance { t with idleCount := none }
  else if boundReached s.cfg.maxIdleQueries n then raiseError codeTimeout (.timeout .idle) t
  else { t with idleCount := some n }

/-- The start of `PollWip()`, with its first status read (46_status_poll R250, 10_state R35): `POLL_COUNT <- 0`. A later
status read of the same call finds the register there and leaves it. -/
def beginPoll (s : State) : State := { s with pollCount := some (s.pollCount.getD 0) }

/-- What the running operation's own text does at a statement that issues a bus command, before it is issued: the status
read of a poll starts it. -/
def beforeIssue (b : BusStmt) (s : State) : State :=
  match b with
  | .rdsr => beginPoll s
  | .rdid | .wren | .qpien | .srp | .erase | .frqio | .pp => s

/-- The test after a status read of `PollWip()` (46_status_poll R250): WIP = 0 ends the poll; WIP = 1 counts, and the
bound raises TIMEOUT(POLL), or the status is read again. SR_BYTE does not survive the poll (10_state R37). -/
def stepPollTest (op : Op) (pc : Nat) (s : State) : Host.Outcome State Fault Refusal :=
  match s.srByte, s.pollCount with
  | none, _ => .fault .absentRegister
  | some _, none => .fault .absentRegister
  | some sr, some count =>
    let n := count + 1
    if !wip sr then .next (advance { s with srByte := none, pollCount := none })
    else if boundReached s.cfg.maxPolls n then
      .next (raiseError codeTimeout (.timeout .poll) { s with pollCount := some n })
    else .next (gotoPc op (pc - 1) { s with pollCount := some n })

/-- The identity gate (41_init R163, 30_encoding R115). -/
def stepCheckId (s : State) : Host.Outcome State Fault Refusal :=
  match s.idBytes with
  | none => .fault .absentRegister
  | some id =>
    if id = s.cfg.expectedId then .next (advance s)
    else .next (raiseError codeIdentityMismatch (.identity id) s)

/-- The index check of an erase, before any bus event (42_erase R187). -/
def stepCheckIndex (op : Op) (s : State) : Host.Outcome State Fault Refusal :=
  match operand .index s.index with
  | .error f => .fault f
  | .ok n => if pastIndex op n then .next (raiseError codeOutOfRange .none s) else .next (advance s)

/-- The bounds check of READ and PROGRAM, before any bus event (44_read R216, 45_program R231). -/
def stepCheckRange (s : State) : Host.Outcome State Fault Refusal :=
  match operand .addr s.addr, operand .len s.len with
  | .error f, _ => .fault f
  | .ok _, .error f => .fault f
  | .ok a, .ok n => if pastCapacity a n then .next (raiseError codeOutOfRange .none s) else .next (advance s)

/-- The window cursor at the head of the window loop: the list at the first window, else the next window
(10_state R34, 43_chunker R207). -/
def nextCursor (a n : Word) (s : State) : Cursor :=
  match s.cursor with
  | none => ⟨chunks s.cfg.chunk a.toNat n.toNat, 0⟩
  | some c => { c with k := c.k + 1 }

/-- The head of the window loop (10_state R33, R34). -/
def stepForWindow (op : Op) (s : State) : Host.Outcome State Fault Refusal :=
  match operand .addr s.addr, operand .len s.len with
  | .error f, _ => .fault f
  | .ok _, .error f => .fault f
  | .ok a, .ok n =>
    let c := nextCursor a n s
    if c.k < c.windows.length then .next (advance { s with cursor := some c })
    else .next (gotoPc op (loopExit op) { s with cursor := some c })

/-- The end of a rule (30_encoding R102). -/
def stepFinish (s : State) : State := endOp (runningOp s) ⟨codeOk, .none⟩ s

/-- The end of INIT (41_init R168). -/
def stepFinishInit (s : State) : State := stepFinish { s with lifecycle := .ready }

/-- One statement of a running operation. -/
def runStmt (op : Op) (pc : Nat) (st : Stmt) (s : State) : Host.Outcome State Fault Refusal :=
  match st with
  | .issue b =>
    match busCommand op b s with
    | .ok i => exec i (beforeIssue b s)
    | .error f => .fault f
  | .setWidth w => .next (stepSetWidth w s)
  | .waitIdle => .next (stepWaitIdle s)
  | .checkId => stepCheckId s
  | .checkIndex => stepCheckIndex op s
  | .checkRange => stepCheckRange s
  | .forWindow => stepForWindow op s
  | .pollTest => stepPollTest op pc s
  | .finishInit => .next (stepFinishInit s)
  | .finish => .next (stepFinish s)

/-- One step of the sequencer; idle, it waits for a write of CMD (70_reset R292; log entry 27). -/
def runSequencer (s : State) : Host.Outcome State Fault Refusal :=
  match s.seq with
  | .idle => .next s
  | .at op pc =>
    match (ruleOf op)[pc]? with
    | some st => runStmt op pc st s
    | none => .fault .seqOutsideRule

end Sys2Proof.Machine
end

