-- ==== Sys2Proof/Machine/Placement.lean ====
section
/-! DEFINITION. Where an instruction is put so that the next step runs it (log entry 13): a host operation as the host's
next CMD write, a bus command as the statement of an operation's rule that issues it, with its operands. -/
namespace Sys2Proof.Machine
open Sys2Proof

/-- The machine ready to take a CMD write at the next step. -/
def placeCommand (b : Byte) (s : State) : State :=
  { s with host := [.act (.writeCmd b)], ctrlBusy := false, seq := .idle }

/-- The machine at a statement of a running operation. -/
def placeAt (op : Op) (pc : Nat) (s : State) : State :=
  { s with host := [], ctrlBusy := true, seq := .at op pc }

/-- The index whose unit address is `a`. -/
def indexOf (op : Op) (a : BusAddr) : Word := BitVec.ofNat 32 (a.toNat >>> unitShift op)

/-- The machine at the current window of READ or PROGRAM. -/
def placeWindow (op : Op) (pc : Nat) (w : Window) (bs : List Byte) (s : State) : State :=
  let b := s.buf.getD 0
  { placeAt op pc s with
    buf := some b, cursor := some ⟨[w], 0⟩, hostMem := memWrite hostDefault s.hostMem (b + w.off) bs }

/-- Place an instruction. -/
def placeInstr (i : Instr) (s : State) : State :=
  match i with
  | .init => placeCommand 0x01 s
  | .eraseChip => placeCommand 0x02 s
  | .eraseSector => placeCommand 0x03 s
  | .eraseBlock32K => placeCommand 0x04 s
  | .eraseBlock64K => placeCommand 0x05 s
  | .read => placeCommand 0x06 s
  | .program => placeCommand 0x07 s
  | .rdid => placeAt .init 1 s
  | .wren => placeAt .eraseChip 0 s
  | .qpien => placeAt .init 5 s
  | .srp => placeAt .init 8 s
  | .rdsr => placeAt .eraseChip 3 s
  | .frqio a n => placeWindow .read 3 ⟨a.toNat, n, 0⟩ [] s
  | .pp a tx => placeWindow .program 4 ⟨a.toNat, tx.length, 0⟩ tx s
  | .ser a => { placeAt .eraseSector 3 s with index := some (indexOf .eraseSector a) }
  | .be32k a => { placeAt .eraseBlock32K 3 s with index := some (indexOf .eraseBlock32K a) }
  | .be64k a => { placeAt .eraseBlock64K 3 s with index := some (indexOf .eraseBlock64K a) }
  | .cer => placeAt .eraseChip 2 s

end Sys2Proof.Machine
end

