-- ==== Sys2Proof/Machine/Step.lean ====
section
/-! DEFINITION. One step (00_scope R7): the host's next action, or the sequencer's next statement. -/
namespace Sys2Proof.Machine
open Sys2Proof

/-- One step. A configuration the spec refuses is refused (43_chunker R209). -/
def step (s : State) : Host.Outcome State Fault Refusal :=
  if s.cfg.Valid then
    match s.host with
    | [] => runSequencer s
    | .pass :: r => runSequencer { s with host := r }
    | .await :: r => if s.ctrlBusy then runSequencer s else .next { s with host := r }
    | .act a :: r => hostAct a { s with host := r }
  else .refused .badConfiguration

/-- The state whose next step runs the instruction of a word of spec/opcode_table.json (log entries 1, 13): a word that
decodes is placed as its instruction, any other is what the host writes to CMD. -/
def State.withFetchWord (s : State) (nbits w : Nat) : State :=
  match decodeTableWord nbits w with
  | some i => placeInstr i s
  | none => placeCommand (BitVec.ofNat 8 w) s

end Sys2Proof.Machine
end

