-- ==== Sys2Proof/Safety.lean ====
section
/-! DEFINITION. The terms that claims use: runs, environments that answer without error, what the attached device is
like when it is ready for a command, and the invariant of the machine. -/
namespace Sys2Proof.Machine
open Sys2Proof

/-- `k` steps, stopping at the first fault or refusal. -/
def runSteps : Nat → State → Host.Outcome State Fault Refusal
  | 0, s => .next s
  | k + 1, s =>
    match step s with
    | .next t => runSteps k t
    | .fault f => .fault f
    | .refused r => .refused r

/-- The transport returned `Ok` with what the device answered (40_bus_primitives R140). -/
abbrev CleanDraw (d : TxDraw) : Prop := d.fail = none ∧ d.answer = none

/-- The device understands what the transport sends now, and is not busy (20_memory R70, R83). -/
abbrev DeviceListens (s : State) : Prop :=
  s.busWidth = modeWidth s.dev.mode ∧ wip s.dev.sr = false

/-- The device understands a transaction, or ignores it: the spec does not leave it unconstrained (20_memory R83, R84;
70_reset R301). `anytime`, `aborted` as in `receive`. -/
abbrev Heeds (d : TxDraw) (w : Width) (anytime aborted : Bool) (dev : Device) : Prop :=
  w = modeWidth dev.mode ∧ (anytime = true ∨ wip dev.sr = false ∨ aborted = false ∨ d.ignores = true)

/-- The same of a bus command issued now; RDSR alone is understood at any time (20_memory R73). -/
abbrev DeviceHeeds (s : State) (i : Instr) : Prop :=
  Heeds (nextTx s).1 s.busWidth (decide (i = .rdsr)) s.afterAbort s.dev

/-- The host does nothing, or waits, while an operation runs (70_reset R304). -/
def hostWaits : List HostEvent → Bool
  | [] | .await :: _ => true
  | .act _ :: _ | .pass :: _ => false

/-- An operation runs, its statement `pc` is next, and the host waits (10_state R30, R33). -/
abbrev Running (s : State) (op : Op) (pc : Nat) : Prop :=
  s.cfg.Valid ∧ hostWaits s.host = true ∧ s.ctrlBusy = true ∧ s.seq = .at op pc

/-- A host operation's constructor as SEQ names it. -/
def opOf : Instr → Option Op
  | .init => some .init
  | .eraseChip => some .eraseChip
  | .eraseSector => some .eraseSector
  | .eraseBlock32K => some .eraseBlock32K
  | .eraseBlock64K => some .eraseBlock64K
  | .read => some .read
  | .program => some .program
  | .rdid | .wren | .qpien | .srp | .rdsr | .frqio _ _ | .pp _ _ | .ser _ | .be32k _ | .be64k _ | .cer => none

/-- The bus command that SEQ's statement issues, if it issues one and its operands are there (10_state R33). -/
def sequencedCommand (s : State) : Option Instr :=
  match s.seq with
  | .idle => none
  | .at op pc =>
    match (ruleOf op)[pc]? with
    | some (.issue b) => (busCommand op b s).toOption
    | _ => none

/-- The write in progress lies inside the array. -/
def pendingInside : Option Pending → Prop
  | some (.program a bs) => a < capacity ∧ bs.length ≤ pageSize
  | some (.erase r) => r.base + r.size ≤ capacity
  | some .other | some .unknown | none => True

/-- READ or PROGRAM past its bounds check: the operands are there and in range (44_read R216, 45_program R231). -/
def RangeChecked (s : State) : Prop :=
  ∃ a n : Word, s.addr = some a ∧ s.len = some n ∧ a.toNat + n.toNat < capacity

/-- The window cursor is the chunker's list for the operands (10_state R34, 43_chunker R207). -/
def CursorOfOperands (s : State) (c : Cursor) : Prop :=
  ∃ a n : Word, s.addr = some a ∧ s.len = some n ∧ c.windows = chunks s.cfg.chunk a.toNat n.toNat

/-- What holds while statement `pc` of an operation is next. -/
def AtStatement (s : State) : Op → Nat → Prop
  | .init, pc =>
      pc < 12 ∧ s.lifecycle ≠ .ready ∧ s.cursor = none
        ∧ (1 ≤ pc ∧ pc ≤ 6 → s.busWidth = .w1) ∧ (7 ≤ pc → s.busWidth = .w4)
        ∧ (2 ≤ pc → s.idBytes ≠ none) ∧ (pc = 10 → s.srByte ≠ none ∧ s.pollCount ≠ none)
  | .eraseChip, pc =>
      pc < 6 ∧ s.lifecycle = .ready ∧ s.busWidth = .w4 ∧ s.cursor = none ∧ (pc = 4 → s.srByte ≠ none ∧ s.pollCount ≠ none)
  | .eraseSector, pc =>
      pc < 7 ∧ s.lifecycle = .ready ∧ s.busWidth = .w4 ∧ s.cursor = none ∧ (pc = 5 → s.srByte ≠ none ∧ s.pollCount ≠ none)
        ∧ (1 ≤ pc → ∃ n, s.index = some n ∧ n.toNat ≤ maxSectorIndex)
  | .eraseBlock32K, pc =>
      pc < 7 ∧ s.lifecycle = .ready ∧ s.busWidth = .w4 ∧ s.cursor = none ∧ (pc = 5 → s.srByte ≠ none ∧ s.pollCount ≠ none)
        ∧ (1 ≤ pc → ∃ n, s.index = some n ∧ n.toNat ≤ maxBlock32Index)
  | .eraseBlock64K, pc =>
      pc < 7 ∧ s.lifecycle = .ready ∧ s.busWidth = .w4 ∧ s.cursor = none ∧ (pc = 5 → s.srByte ≠ none ∧ s.pollCount ≠ none)
        ∧ (1 ≤ pc → ∃ n, s.index = some n ∧ n.toNat ≤ maxBlock64Index)
  | .read, pc =>
      pc < 5 ∧ s.lifecycle = .ready ∧ s.busWidth = .w4
        ∧ (1 ≤ pc → RangeChecked s) ∧ (∀ c, s.cursor = some c → CursorOfOperands s c)
        ∧ (pc = 0 → s.cursor = none) ∧ (2 ≤ pc → s.cursor ≠ none)
        ∧ (2 ≤ pc ∧ pc ≤ 3 → currentWindow s ≠ none)
  | .program, pc =>
      pc < 8 ∧ s.lifecycle = .ready ∧ s.busWidth = .w4 ∧ (pc = 6 → s.srByte ≠ none ∧ s.pollCount ≠ none)
        ∧ (1 ≤ pc → RangeChecked s) ∧ (∀ c, s.cursor = some c → CursorOfOperands s c)
        ∧ (pc = 0 → s.cursor = none) ∧ (2 ≤ pc → s.cursor ≠ none)
        ∧ (2 ≤ pc ∧ pc ≤ 6 → currentWindow s ≠ none)

/-- What holds of the sequencer's registers: idle, nothing that exists only while an operation runs (10_state R20,
R34-R37) and width 4 when READY (40_bus_primitives R148); running, what its statement needs. -/
def SeqInv (s : State) : Prop :=
  match s.seq with
  | .idle =>
      s.ctrlBusy = false ∧ s.cursor = none ∧ s.pollCount = none ∧ s.idleCount = none ∧ s.idBytes = none
        ∧ s.srByte = none ∧ (s.lifecycle = .ready → s.busWidth = .w4)
  | .at op pc => s.ctrlBusy = true ∧ AtStatement s op pc

/-- What holds of the device: the array in canonical form and inside the address space (20_memory R60), WIP = 1 exactly
while a write is in progress (10_state R41). -/
def DeviceInv (d : Device) : Prop :=
  memWf arrayDefault d.array ∧ (∀ c ∈ d.array, c.1 < capacity) ∧ pendingInside d.pending
    ∧ wip d.sr = d.pending.isSome

/-- The invariant of the machine. -/
structure Inv (s : State) : Prop where
  sequencer : SeqInv s
  device    : DeviceInv s.dev
  hostForm  : memWf hostDefault s.hostMem
  resultOk  : s.result.code.toNat ≤ 6

/-- Every transaction of a trace is one of the eleven commands, of its format, width and operands (30_encoding
R107-R111, 43_chunker R204). -/
def TraceDecodes (c : Config) (t : List Event) : Prop :=
  ∀ d r, Event.tx d r ∈ t → ∃ i, decodeDesc c d = .ok i

end Sys2Proof.Machine
end

