-- ==== Sys2Proof/Certificates/Slice0/Obligations.lean ====
section
/-! DEFINITION. The statements for the provers. Each docstring names the rule of spec/ it rests on. -/
open Sys2Proof Sys2Proof.Machine

/-! ### Encoding -/

/-- 30_encoding sections 1 to 3: decoding the words of a well-formed instruction gives it back, with every operand, for
every configuration and every width the command is issued at. -/
def Obligations.DecodeOfEncode : Prop :=
  ∀ (c : Config) (w : Width) (i : Instr),
    c.Valid → wellFormed c i = true → widthLegal w i = true → decode c (encode c w i) = .ok i

/-- 30_encoding sections 1 to 3: words that decode are the words of the instruction they decode to, which is
well-formed; no field of a descriptor is dropped. -/
def Obligations.EncodeOfDecode : Prop :=
  ∀ (c : Config) (ws : Words) (i : Instr),
    decode c ws = .ok i →
      wellFormed c i = true ∧ ∃ w, widthLegal w i = true ∧ encode c w i = ws

/-- 30_encoding R101: which CMD byte is which operation, and that no other byte is one. -/
def Obligations.CommandBytesNameTheSevenOperations : Prop :=
  decodeCmd 0x01 = .ok .init ∧ decodeCmd 0x02 = .ok .eraseChip ∧ decodeCmd 0x03 = .ok .eraseSector ∧
  decodeCmd 0x04 = .ok .eraseBlock32K ∧ decodeCmd 0x05 = .ok .eraseBlock64K ∧ decodeCmd 0x06 = .ok .read ∧
  decodeCmd 0x07 = .ok .program ∧
  ∀ b : Byte, b = 0 ∨ 8 ≤ b.toNat → ∃ e, decodeCmd b = .error e

/-- 95_test_vectors section 2.8: descriptors written out by hand decode to their commands, in the configuration of the
default bytes; those bytes, RDID's apart, are PRESUMED (log entry 4). -/
def Obligations.WrittenDescriptorsDecode : Prop :=
  decodeDesc Config.standard ⟨.w1, 0x9F, none, none, 0, [], 3⟩ = .ok .rdid ∧
  decodeDesc Config.standard ⟨.w4, 0x06, none, none, 0, [], 0⟩ = .ok .wren ∧
  decodeDesc Config.standard ⟨.w1, 0x35, none, none, 0, [], 0⟩ = .ok .qpien ∧
  decodeDesc Config.standard ⟨.w4, 0xC0, none, none, 0, [0xF0], 0⟩ = .ok .srp ∧
  decodeDesc Config.standard ⟨.w4, 0x05, none, none, 0, [], 1⟩ = .ok .rdsr ∧
  decodeDesc Config.standard ⟨.w4, 0xEB, some 0x123456, some 0x00, 8, [], 7⟩ = .ok (.frqio 0x123456 7) ∧
  decodeDesc Config.standard ⟨.w4, 0x02, some 0x000040, none, 0, [0x01, 0x02], 0⟩ = .ok (.pp 0x000040 [0x01, 0x02]) ∧
  decodeDesc Config.standard ⟨.w4, 0x20, some 0x7FF000, none, 0, [], 0⟩ = .ok (.ser 0x7FF000) ∧
  decodeDesc Config.standard ⟨.w4, 0x52, some 0x080000, none, 0, [], 0⟩ = .ok (.be32k 0x080000) ∧
  decodeDesc Config.standard ⟨.w4, 0xD8, some 0x400000, none, 0, [], 0⟩ = .ok (.be64k 0x400000) ∧
  decodeDesc Config.standard ⟨.w4, 0xC7, none, none, 0, [], 0⟩ = .ok .cer

/-! ### A step runs the decoded instruction -/

/-- A CMD write whose byte decodes runs that instruction, with the byte latched in CMD and the host's action taken
(30_encoding section 1). -/
def Obligations.StepRunsTheCommandWritten : Prop :=
  ∀ (s : State) (b : Byte) (r : List HostEvent) (i : Instr),
    s.cfg.Valid → s.host = .act (.writeCmd b) :: r → s.ctrlBusy = false → decodeCmd b = .ok i →
      step s = exec i { s with host := r, cmd := b }

/-- While an operation runs and the host waits, a step at a statement that issues a bus command runs that command
(10_state section 3, 30_encoding section 3); before a status read the poll's counter is started, at 0, unless the poll
has started it (46_status_poll R250). -/
def Obligations.StepRunsTheSequencedCommand : Prop :=
  ∀ (s : State) (i : Instr),
    s.cfg.Valid → hostWaits s.host = true → s.ctrlBusy = true → sequencedCommand s = some i →
      (i ≠ .rdsr → step s = exec i s) ∧
      (i = .rdsr → step s = exec .rdsr { s with pollCount := some (s.pollCount.getD 0) })

/-! ### Host operations: decode, start, refusal -/

/-- Completion of the seven host operations' CMD write (30_encoding section 1, 10_state section 2): while CTRL_BUSY = 0
and in the LIFECYCLE that R103 asks for, CTRL_BUSY <- 1 and SEQ is at the first statement of the operation's rule;
nothing else changes. The rest of the operation is the run of that rule (log entry 2). -/
def Obligations.AcceptedOperationStarts : Prop :=
  ∀ s : State, s.ctrlBusy = false →
    (s.lifecycle ≠ .ready → exec .init s = .next { s with ctrlBusy := true, seq := .at .init 0 }) ∧
    (s.lifecycle = .ready →
      exec .eraseChip s = .next { s with ctrlBusy := true, seq := .at .eraseChip 0 } ∧
      exec .eraseSector s = .next { s with ctrlBusy := true, seq := .at .eraseSector 0 } ∧
      exec .eraseBlock32K s = .next { s with ctrlBusy := true, seq := .at .eraseBlock32K 0 } ∧
      exec .eraseBlock64K s = .next { s with ctrlBusy := true, seq := .at .eraseBlock64K 0 } ∧
      exec .read s = .next { s with ctrlBusy := true, seq := .at .read 0 } ∧
      exec .program s = .next { s with ctrlBusy := true, seq := .at .program 0 })

/-- 60_exceptions R265: STATE_ERROR, before any bus event, for INIT in READY and any other operation outside READY.
RESULT.INFO is LIFECYCLE, LIFECYCLE itself and every other register stay (R267). -/
def Obligations.WrongLifecycleIsStateError : Prop :=
  ∀ (s : State) (i : Instr) (op : Op),
    opOf i = some op → s.ctrlBusy = false →
    (op = .init ∧ s.lifecycle = .ready ∨ op ≠ .init ∧ s.lifecycle ≠ .ready) →
      ∃ t, exec i s = .next t ∧ t.result = ⟨5, .lifecycle s.lifecycle⟩ ∧ t.lifecycle = s.lifecycle ∧
        t.ctrlBusy = false ∧ t.seq = .idle ∧ busEvents t.trace = busEvents s.trace ∧ t.dev = s.dev ∧
        t.hostMem = s.hostMem ∧ t.addr = s.addr ∧ t.len = s.len ∧ t.index = s.index ∧ t.buf = s.buf ∧
        t.busWidth = s.busWidth ∧ t.txIn = s.txIn ∧ t.busyIn = s.busyIn ∧ t.cmd = s.cmd

/-- 60_exceptions R266: ILLEGAL_COMMAND, before any bus event, when CMD[7:4] is not 0 or OP is 0x0 or 0x8 to 0xF. -/
def Obligations.IllegalCommandIsRaised : Prop :=
  ∀ (s : State) (b : Byte) (r : List HostEvent),
    s.cfg.Valid → s.host = .act (.writeCmd b) :: r → s.ctrlBusy = false →
    (b.toNat / 16 ≠ 0 ∨ b.toNat % 16 = 0 ∨ 8 ≤ b.toNat % 16) →
      ∃ t, step s = .next t ∧ t.result = ⟨6, .command b⟩ ∧ t.lifecycle = s.lifecycle ∧ t.ctrlBusy = false ∧
        t.seq = .idle ∧ busEvents t.trace = busEvents s.trace ∧ t.dev = s.dev ∧ t.hostMem = s.hostMem ∧
        t.addr = s.addr ∧ t.len = s.len ∧ t.index = s.index ∧ t.buf = s.buf ∧ t.busWidth = s.busWidth ∧ t.host = r

/-- 70_reset R304: while CTRL_BUSY = 1 the model refuses a write of CMD, of an operand register, and a change of the
content of BUF. -/
def Obligations.HostActionsWhileBusyAreRefused : Prop :=
  ∀ s : State, s.ctrlBusy = true →
    (∀ b, hostAct (.writeCmd b) s = .refused .commandWhileBusy) ∧
    (∀ v, hostAct (.writeAddr v) s = .refused .operandWhileBusy) ∧
    (∀ v, hostAct (.writeLen v) s = .refused .operandWhileBusy) ∧
    (∀ v, hostAct (.writeIndex v) s = .refused .operandWhileBusy) ∧
    (∀ a, hostAct (.writeBuf a) s = .refused .operandWhileBusy) ∧
    (∀ (b : Nat) (n : Word) (a : Nat) (bs : List Byte), s.buf = some b → s.len = some n →
      (∃ k, k < bs.length ∧ b ≤ a + k ∧ a + k < b + n.toNat) →
        hostAct (.store a bs) s = .refused .bufferWhileBusy)

/-- 43_chunker R209: a configuration whose CHUNK does not divide PAGE_SIZE is refused. That one whose command bytes are
not distinct is refused too, and that the refusal stands before every step, is the model's (log entry 33). -/
def Obligations.BadConfigurationIsRefused : Prop :=
  ∀ s : State, (pageSize % s.cfg.chunk ≠ 0 ∨ s.cfg.chunk = 0 ∨ ¬s.cfg.commandBytes.Nodup) →
    step s = .refused .badConfiguration

/-- The operand registers and the host's reads (10_state sections 2 and 6). While CTRL_BUSY = 0 a host write of ADDR,
LEN, INDEX or BUF sets that register and nothing else. The statement of an operation that reads one never written
faults: the register is not given a zero (R28; which statement reads which register is log entry 5). A host read of one
never written faults too (R50); a read of one that is set, or of LIFECYCLE, CTRL_BUSY or RESULT, delivers its value and
changes nothing else (log entry 35). -/
def Obligations.OperandRegistersAreWrittenAndRead : Prop :=
  ∀ (s : State) (op : Op),
    (s.ctrlBusy = false →
      (∀ v, hostAct (.writeAddr v) s = .next { s with addr := some v }) ∧
      (∀ v, hostAct (.writeLen v) s = .next { s with len := some v }) ∧
      (∀ v, hostAct (.writeIndex v) s = .next { s with index := some v }) ∧
      ∀ a, hostAct (.writeBuf a) s = .next { s with buf := some a }) ∧
    (op = .eraseSector ∨ op = .eraseBlock32K ∨ op = .eraseBlock64K → Running s op 0 → s.index = none →
      step s = .fault (.unsetOperand .index)) ∧
    (op = .read ∨ op = .program → Running s op 0 → s.addr = none → step s = .fault (.unsetOperand .addr)) ∧
    (∀ a, op = .read ∨ op = .program → Running s op 0 → s.addr = some a → s.len = none →
      step s = .fault (.unsetOperand .len)) ∧
    (∀ w, op = .read ∧ Running s op 3 ∨ op = .program ∧ Running s op 4 → currentWindow s = some w →
      s.buf = none → step s = .fault (.unsetOperand .buf)) ∧
    (s.addr = none → hostAct (.readReg .addr) s = .fault (.unsetOperand .addr)) ∧
    (s.len = none → hostAct (.readReg .len) s = .fault (.unsetOperand .len)) ∧
    (s.index = none → hostAct (.readReg .index) s = .fault (.unsetOperand .index)) ∧
    (s.buf = none → hostAct (.readReg .buf) s = .fault (.unsetOperand .buf)) ∧
    (∀ v, s.addr = some v → hostAct (.readReg .addr) s = .next { s with hostRead := some (.word v) }) ∧
    (∀ v, s.len = some v → hostAct (.readReg .len) s = .next { s with hostRead := some (.word v) }) ∧
    (∀ v, s.index = some v → hostAct (.readReg .index) s = .next { s with hostRead := some (.word v) }) ∧
    (∀ a, s.buf = some a → hostAct (.readReg .buf) s = .next { s with hostRead := some (.ref a) }) ∧
    (∃ c : BitVec 2, hostAct (.readReg .lifecycle) s = .next { s with hostRead := some (.lifecycle c) } ∧
      (s.lifecycle = .uninit → c = 0) ∧ (s.lifecycle = .ready → c = 1) ∧ (s.lifecycle = .initFailed → c = 2)) ∧
    hostAct (.readReg .ctrlBusy) s = .next { s with hostRead := some (.flag s.ctrlBusy) } ∧
    hostAct (.readReg .result) s = .next { s with hostRead := some (.result s.result) }

/-! ### Reset -/

/-- 70_reset R290 with the table of 10_state R50: reset puts every register of FLASHCTRL to its reset value and touches
neither the device nor the trace; that the host's memory stays too is the model's reading (log entry 26). R291: after it
only INIT is not refused with STATE_ERROR. -/
def Obligations.ResetLeavesTheResetValues : Prop :=
  ∀ (s : State) (w : Width) (busy : Bool),
    ∃ t, hostAct (.reset w busy) s = .next t ∧
      t.lifecycle = .uninit ∧ t.ctrlBusy = false ∧ t.result = ⟨0, .none⟩ ∧ t.addr = none ∧ t.len = none ∧
      t.index = none ∧ t.buf = none ∧ t.seq = .idle ∧ t.cursor = none ∧ t.pollCount = none ∧ t.idleCount = none ∧
      t.idBytes = none ∧ t.srByte = none ∧ t.dev = s.dev ∧ t.trace = s.trace ∧ t.hostMem = s.hostMem ∧
      t.cfg = s.cfg ∧
      exec .init t = .next { t with ctrlBusy := true, seq := .at .init 0 } ∧
      ∀ i op, opOf i = some op → op ≠ .init →
        ∃ u, exec i t = .next u ∧ u.result = ⟨5, .lifecycle .uninit⟩ ∧ u.lifecycle = .uninit ∧
          busEvents u.trace = busEvents t.trace

/-! ### The bus commands: what each does when it is understood, the transport returns Ok and the device is not busy -/

/-- 20_memory R71: RDID returns the identity tuple, byte 0 manufacturer, byte 1 device, byte 2 capacity, and changes no
device state. -/
def Obligations.RdidReturnsTheIdentity : Prop :=
  ∀ (s : State) (d : TxDraw) (r : List TxDraw),
    s.txIn = d :: r → CleanDraw d → DeviceListens s →
      exec .rdid s = .next
        { s with
          txIn := r, idBytes := some s.dev.chip.ident, seq := seqAfter s.seq,
          trace := s.trace ++ [.tx ⟨s.busWidth, 0x9F, none, none, 0, [], 3⟩
            (.ok [s.dev.chip.ident.manufacturer, s.dev.chip.ident.device, s.dev.chip.ident.capacity])] }

/-- 20_memory R72: WREN sets WEL to 1. -/
def Obligations.WrenSetsTheWriteEnableLatch : Prop :=
  ∀ (s : State) (d : TxDraw) (r : List TxDraw),
    s.txIn = d :: r → CleanDraw d → DeviceListens s →
      ∃ sr : Byte,
        exec .wren s = .next
          { s with
            txIn := r, dev := { s.dev with sr := sr }, seq := seqAfter s.seq,
            trace := s.trace ++ [.tx ⟨s.busWidth, s.cfg.opWren, none, none, 0, [], 0⟩ (.ok [])] } ∧
        sr.getLsbD 1 = true ∧ ∀ k, k ≠ 1 → sr.getLsbD k = s.dev.sr.getLsbD k

/-- 40_bus_primitives section 2 (QPIEN) with 20_memory section 4: with WEL = 1, as FLASHCTRL always sends it, QPIEN puts
the device in QPI4 whatever it draws about WEL. -/
def Obligations.QpienEntersQuadMode : Prop :=
  ∀ (s : State) (d : TxDraw) (r : List TxDraw),
    s.txIn = d :: r → CleanDraw d → DeviceListens s → wel s.dev.sr = true →
      exec .qpien s = .next
        { s with
          txIn := r, dev := { s.dev with mode := .qpi4 }, seq := seqAfter s.seq,
          trace := s.trace ++ [.tx ⟨s.busWidth, s.cfg.opQpien, none, none, 0, [], 0⟩ (.ok [])] }

/-- 20_memory section 4 (SRP): with WEL = 1 the read-parameter register takes READ_PARAM_VALUE; whether WIP is set and
WEL cleared is open (U31), so the statement holds for both. The write in progress that SRP may start has nothing to do
to the array (log entry 14). -/
def Obligations.SrpWritesTheReadParameters : Prop :=
  ∀ (s : State) (d : TxDraw) (r : List TxDraw),
    s.txIn = d :: r → CleanDraw d → DeviceListens s → wel s.dev.sr = true →
      ∃ (sr : Byte) (p : Option Pending),
        exec .srp s = .next
          { s with
            txIn := r, dev := { s.dev with readParam := s.cfg.readParamValue, sr := sr, pending := p },
            seq := seqAfter s.seq,
            trace := s.trace ++ [.tx ⟨s.busWidth, s.cfg.opSrp, none, none, 0, [s.cfg.readParamValue], 0⟩ (.ok [])] } ∧
        (∀ k, k ≠ 0 → k ≠ 1 → sr.getLsbD k = s.dev.sr.getLsbD k) ∧ (p = s.dev.pending ∨ p = some .other)

/-- 20_memory R73: RDSR returns the status register byte, changes no device state, and is understood while WIP = 1
(`done = false`: the write in progress, if any, has not completed). What it says of an aborted operation, the model's own
mark (log entry 16), is stated by `SuccessfulBusCommandsKeepTheSequencer`. -/
def Obligations.RdsrReturnsTheStatusByte : Prop :=
  ∀ (s : State) (d : TxDraw) (r : List TxDraw),
    s.txIn = d :: r → CleanDraw d → s.busWidth = modeWidth s.dev.mode → (d.done = false ∨ wip s.dev.sr = false) →
      ∃ mark : Bool,
        exec .rdsr s = .next
          { s with
            txIn := r, srByte := some s.dev.sr, afterAbort := mark, seq := seqAfter s.seq,
            trace := s.trace ++ [.tx ⟨s.busWidth, s.cfg.opRdsr, none, none, 0, [], 1⟩ (.ok [s.dev.sr])] }

/-- 20_memory R74 and R75 with 44_read R218: FRQIO returns `MemRead(a, n)`, addresses mod CAPACITY, and the window's
bytes go to BUF[off .. off + n); no device state changes, and no other byte of the host's memory. The bytes are known
ones (`deviceByte`), and the dummy counts agree (70_reset R307). -/
def Obligations.FrqioReadsTheArrayIntoTheBuffer : Prop :=
  ∀ (s : State) (d : TxDraw) (r : List TxDraw) (pc : Nat) (w : Window) (b : Nat) (v : Nat → Byte),
    s.txIn = d :: r → CleanDraw d → DeviceListens s → dummyAgrees s.dev = true →
    s.seq = .at .read pc → currentWindow s = some w → s.buf = some b → memWf hostDefault s.hostMem →
    (∀ j, j < w.len → deviceByte s.dev ((w.addr + j) % capacity) = some (v j)) → w.addr < capacity →
      ∃ m : Mem,
        exec (.frqio (BitVec.ofNat 24 w.addr) w.len) s = .next
          { s with
            txIn := r, hostMem := m, seq := seqAfter s.seq,
            trace := s.trace ++ [.tx ⟨s.busWidth, s.cfg.opFrqio, some (BitVec.ofNat 24 w.addr), some 0x00, 8, [], w.len⟩
              (.ok ((List.range w.len).map v))] } ∧
        memWf hostDefault m ∧
        (∀ j, j < w.len → memGet hostDefault m (b + w.off + j) = v j) ∧
        (∀ x, x < b + w.off ∨ b + w.off + w.len ≤ x → memGet hostDefault m x = memGet hostDefault s.hostMem x)

/-- 20_memory R77 (its start): PP with WEL = 1, its bytes not all protected, clears WEL and sets WIP; the write in
progress is `MemWrite(a, n, v)`, whose effect `CompletedProgramAndsInsideThePage` states. Until it completes, a byte it
does not write is as before, and one it writes is unspecified (R82). The model's: that bytes protected in part are
accepted (log entry 17), that the write is stored at its completion (22), what is unspecified until then (30). -/
def Obligations.PpStartsAProgram : Prop :=
  ∀ (s : State) (d : TxDraw) (r : List TxDraw) (a : BusAddr) (v : List Byte),
    s.txIn = d :: r → CleanDraw d → DeviceListens s → s.dev.pending = none → wel s.dev.sr = true →
    protectedProgram s.dev a.toNat v = false → a.toNat < capacity → v.length ≤ pageSize →
      ∃ (sr : Byte) (t : State),
        exec (.pp a v) s = .next t ∧
        t = { s with
              txIn := r, dev := { s.dev with sr := sr, pending := some (.program a.toNat v) }, seq := seqAfter s.seq,
              trace := s.trace ++ [.tx ⟨s.busWidth, s.cfg.opPp, some a, none, 0, v, 0⟩ (.ok [])] } ∧
        sr.getLsbD 0 = true ∧ sr.getLsbD 1 = false ∧ (∀ k, 2 ≤ k → sr.getLsbD k = s.dev.sr.getLsbD k) ∧
        (∀ x, (∀ i, i < v.length → pageWrap a.toNat i ≠ x) → deviceByte t.dev x = deviceByte s.dev x) ∧
        (∀ i, i < v.length → deviceByte t.dev (pageWrap a.toNat i) = none)

/-- 20_memory R78 (its start): an erase command with WEL = 1, its region not all protected, clears WEL and sets WIP; the
write in progress is the erase of its region. Until it completes a byte outside the region is as before, and one inside
it is unspecified (R82). The model's: that a region protected only in part is accepted (log entry 17), that the erase is
carried out at its completion (22), which bytes are unspecified until then (30). -/
def Obligations.EraseCommandsStartAnErase : Prop :=
  ∀ (s : State) (d : TxDraw) (r : List TxDraw) (a : BusAddr),
    s.txIn = d :: r → CleanDraw d → DeviceListens s → s.dev.pending = none → wel s.dev.sr = true →
    a.toNat < capacity →
      ∃ sr : Byte,
        sr.getLsbD 0 = true ∧ sr.getLsbD 1 = false ∧ (∀ k, 2 ≤ k → sr.getLsbD k = s.dev.sr.getLsbD k) ∧
        ∀ (i : Instr) (g : Range) (c : Byte) (o : Option BusAddr),
          (i = .ser a ∧ g = ⟨a.toNat - a.toNat % 4096, 4096⟩ ∧ c = s.cfg.opSer ∧ o = some a ∨
           i = .be32k a ∧ g = ⟨a.toNat - a.toNat % 32768, 32768⟩ ∧ c = s.cfg.opBe32k ∧ o = some a ∨
           i = .be64k a ∧ g = ⟨a.toNat - a.toNat % 65536, 65536⟩ ∧ c = s.cfg.opBe64k ∧ o = some a ∨
           i = .cer ∧ g = ⟨0, 0x800000⟩ ∧ c = s.cfg.opCer ∧ o = none) →
          protectedRange s.dev g = false →
          ∃ t : State,
            exec i s = .next t ∧
            t = { s with
                  txIn := r, dev := { s.dev with sr := sr, pending := some (.erase g) }, seq := seqAfter s.seq,
                  trace := s.trace ++ [.tx ⟨s.busWidth, c, o, none, 0, [], 0⟩ (.ok [])] } ∧
            (∀ x, x < g.base ∨ g.base + g.size ≤ x → deviceByte t.dev x = deviceByte s.dev x) ∧
            (∀ x, g.base ≤ x → x < g.base + g.size → deviceByte t.dev x = none)

/-- 20_memory R76: what a completed program leaves: each byte that `MemWrite` reaches is ANDed, whatever it held,
wrapping in its page (where none of them is protected), and no other byte changes. The WIP bit is 0 and every other
status bit as before (R77, R82). Which bytes read as unspecified stays as it was: the model's (log entry 10). -/
def Obligations.CompletedProgramAndsInsideThePage : Prop :=
  ∀ (dev : Device) (a : Nat) (v : List Byte),
    memWf arrayDefault dev.array → dev.pending = some (.program a v) → v.length ≤ 256 →
    (∀ i, i < v.length → protectedAt dev (a - a % 256 + (a % 256 + i) % 256) = false) →
      (∀ i, i < v.length →
        arrayByte (completeWrite dev) (a - a % 256 + (a % 256 + i) % 256)
          = arrayByte dev (a - a % 256 + (a % 256 + i) % 256) &&& v.getD i 0) ∧
      (∀ x, (∀ i, i < v.length → a - a % 256 + (a % 256 + i) % 256 ≠ x) →
        arrayByte (completeWrite dev) x = arrayByte dev x) ∧
      (completeWrite dev).doubt = dev.doubt ∧ memWf arrayDefault (completeWrite dev).array ∧
      (completeWrite dev).pending = none ∧ wip (completeWrite dev).sr = false ∧
      ∀ k, 1 ≤ k → (completeWrite dev).sr.getLsbD k = dev.sr.getLsbD k

/-- 20_memory R78: a completed erase leaves 0xFF in every byte of its region that is not protected, whatever was there
(unspecified bytes included), and no byte outside it changed; WIP is 0. That a region protected in part loses its
unprotected bytes is the model's (log entry 17). -/
def Obligations.CompletedEraseSetsTheRegion : Prop :=
  ∀ (dev : Device) (g : Range),
    dev.pending = some (.erase g) →
      (∀ x, g.base ≤ x → x < g.base + g.size → protectedAt dev x = false →
        deviceByte (completeWrite dev) x = some 0xFF) ∧
      (∀ x, x < g.base ∨ g.base + g.size ≤ x → deviceByte (completeWrite dev) x = deviceByte dev x) ∧
      (completeWrite dev).pending = none ∧ wip (completeWrite dev).sr = false ∧
      ∀ k, 1 ≤ k → (completeWrite dev).sr.getLsbD k = dev.sr.getLsbD k

/-- 20_memory R83: a write-class command without WEL, one that finds WIP = 1, and one whose bytes are all protected, leave
the device as it is, WIP included; so does every other command but RDSR that finds WIP = 1. (Between an abort and the
status read that shows WIP = 0, 70_reset R301 leaves a busy device open, and the statement is about the draw that ignores;
log entry 16.) -/
def Obligations.UnacceptedWritesChangeNothing : Prop :=
  (∀ (s : State) (d : TxDraw) (r : List TxDraw) (i : Instr) (a : BusAddr) (v : List Byte),
    i = .pp a v ∨ i = .ser a ∨ i = .be32k a ∨ i = .be64k a ∨ i = .cer →
    s.txIn = d :: r → CleanDraw d → s.busWidth = modeWidth s.dev.mode → d.done = false →
    a.toNat < capacity → v.length ≤ pageSize →
    (wip s.dev.sr = false ∧ wel s.dev.sr = false ∨ wip s.dev.sr = true ∧ (s.afterAbort = false ∨ d.ignores = true) ∨
      wip s.dev.sr = false ∧
        ((i = .pp a v → v ≠ [] ∧ ∀ j, j < v.length → protectedAt s.dev (pageWrap a.toNat j) = true) ∧
         (i = .ser a → ∀ x, a.toNat / 4096 = x / 4096 → protectedAt s.dev x = true) ∧
         (i = .be32k a → ∀ x, a.toNat / 32768 = x / 32768 → protectedAt s.dev x = true) ∧
         (i = .be64k a → ∀ x, a.toNat / 65536 = x / 65536 → protectedAt s.dev x = true) ∧
         (i = .cer → ∀ x, x < capacity → protectedAt s.dev x = true))) →
      ∃ t, exec i s = .next t ∧ t.dev = s.dev ∧ t.hostMem = s.hostMem ∧ t.seq = seqAfter s.seq) ∧
  ∀ (s : State) (d : TxDraw) (r : List TxDraw) (i : Instr) (a : BusAddr) (n : Nat),
    i = .rdid ∨ i = .wren ∨ i = .qpien ∨ i = .srp ∨ i = .frqio a n →
    s.txIn = d :: r → CleanDraw d → s.busWidth = modeWidth s.dev.mode → d.done = false →
    wip s.dev.sr = true → (s.afterAbort = false ∨ d.ignores = true) →
      ∃ t, exec i s = .next t ∧ t.dev = s.dev ∧ t.seq = seqAfter s.seq ∧ (i ≠ .frqio a n → t.hostMem = s.hostMem)

/-- 10_state R43 in the model's reading (log entry 17): a completed write changes no protected byte of the array. -/
def Obligations.ProtectedBytesAreNotWritten : Prop :=
  ∀ (dev : Device) (x : Nat),
    memWf arrayDefault dev.array → protectedAt dev x = true → arrayByte (completeWrite dev) x = arrayByte dev x

/-- 20_memory R79: with no erase in progress, no instruction that the device understands or ignores makes a bit of the
array go from 0 to 1: whatever else the environment draws and whatever the array held, a byte the device answers
afterwards has only bits that it had before. (A device left unconstrained, R84, may hold any array.) -/
def Obligations.OnlyErasesSetBits : Prop :=
  ∀ (s t : State) (i : Instr) (x : Nat) (v : Byte),
    memWf arrayDefault s.dev.array → (∀ g, s.dev.pending ≠ some (.erase g)) → s.dev.pending ≠ some .unknown →
    (opOf i = none → DeviceHeeds s i) → exec i s = .next t → deviceByte t.dev x = some v →
      ∀ k, v.getLsbD k = true → (arrayByte s.dev x).getLsbD k = true

/-- 60_exceptions R261 with 40_bus_primitives R141: a bus command whose `Transact` returns Err ends the operation with
TRANSPORT_ERROR, INFO the transport's value unchanged and the command byte; an INIT becomes INIT_FAILED; no further bus
event, and no operand register or BUS_WIDTH changed (R267). -/
def Obligations.TransportErrorEndsTheOperation : Prop :=
  ∀ (s : State) (d : TxDraw) (r : List TxDraw) (i : Instr) (e : Nat) (k : Reach),
    opOf i = none → wellFormed s.cfg i = true → s.cfg.Valid → s.txIn = d :: r → d.fail = some (e, k) →
      ∃ (t : State) (q : Desc), exec i s = .next t ∧ encode s.cfg s.busWidth i = .desc q ∧
        t.result = ⟨1, .transport e q.cmd⟩ ∧ t.ctrlBusy = false ∧ t.seq = .idle ∧
        busEvents t.trace = busEvents s.trace ++ [.tx q (.err e)] ∧
        (runningOp s = some .init → t.lifecycle = .initFailed) ∧
        (runningOp s ≠ some .init → t.lifecycle = s.lifecycle) ∧
        t.busWidth = s.busWidth ∧ t.addr = s.addr ∧ t.len = s.len ∧ t.index = s.index ∧ t.buf = s.buf ∧
        t.txIn = r ∧ t.busyIn = s.busyIn

/-- What a failed transaction leaves, in the model's reading of 20_memory R85 and 60_exceptions R269 (log entry 19). One
that never reached the device leaves it as the completion of a write in progress left it; one that was carried out leaves
it as a success does. One that was torn leaves the registers as a success does, and each byte of the write that it started
is unspecified, after WIP is 0 again too; every other byte is as before. Where it started no write (the device was busy, or
did not understand it, or the command is none or was not accepted) nothing is torn. -/
def Obligations.FailedTransactionWasLostCarriedOutOrTorn : Prop :=
  ∀ (s t : State) (d : TxDraw) (r : List TxDraw) (i : Instr) (e : Nat),
    opOf i = none → s.txIn = d :: r → exec i s = .next t →
    (d.fail = some (e, .lost) → t.dev = settle d.done s.dev) ∧
    (d.fail = some (e, .applied) →
      ∃ u, exec i { s with txIn := { d with fail := none } :: r } = .next u ∧ t.dev = u.dev) ∧
    (d.fail = some (e, .torn) →
      ∃ (u : State) (dev : Device),
        exec i { s with txIn := { d with fail := none } :: r } = .next u ∧ dev = settle d.done s.dev ∧
        t.dev.sr = u.dev.sr ∧ t.dev.readParam = u.dev.readParam ∧ t.dev.mode = u.dev.mode ∧
        (wip dev.sr = true ∨ s.busWidth ≠ modeWidth dev.mode → t.dev = u.dev) ∧
        (wip dev.sr = false → s.busWidth = modeWidth dev.mode → dev.pending = none →
          (u.dev.pending = none ∨ u.dev.pending = some .other → t.dev = u.dev) ∧
          (∀ a v, i = .pp a v → wel dev.sr = true → protectedProgram dev a.toNat v = false →
            (∀ j, j < v.length → deviceByte t.dev (pageWrap a.toNat j) = none ∧
              deviceByte (completeWrite t.dev) (pageWrap a.toNat j) = none) ∧
            ∀ x, (∀ j, j < v.length → pageWrap a.toNat j ≠ x) → deviceByte t.dev x = deviceByte dev x) ∧
          ∀ (a : BusAddr) (g : Range),
            (i = .ser a ∧ g = ⟨a.toNat - a.toNat % 4096, 4096⟩ ∨ i = .be32k a ∧ g = ⟨a.toNat - a.toNat % 32768, 32768⟩ ∨
             i = .be64k a ∧ g = ⟨a.toNat - a.toNat % 65536, 65536⟩ ∨ i = .cer ∧ g = ⟨0, 0x800000⟩) →
            wel dev.sr = true → protectedRange dev g = false →
              (∀ x, g.base ≤ x → x < g.base + g.size →
                deviceByte t.dev x = none ∧ deviceByte (completeWrite t.dev) x = none) ∧
              ∀ x, x < g.base ∨ g.base + g.size ≤ x → deviceByte t.dev x = deviceByte dev x))

/-- What leaves the device open. 20_memory R84 in the model's reading (log entries 10 and 15): a transaction at a width
other than DEV_MODE leaves the device's registers whatever the environment draws, and its array a content of which
nothing is known, but which stays what it is: one number drawn, not one byte for each read. While the drawn WIP is 1, and
where a torn write left a byte in doubt, it reads as unspecified. The run goes on. 70_reset R302 and R309 (log entries 26
and 31): a power cycle leaves its two registers as drawn and DEV_MODE SPI1, keeps the array outside the region of a write
in progress and leaves that region unspecified; FLASHCTRL, the host and the chip's facts are as before. -/
def Obligations.WrongWidthAndPowerCycleLeaveTheDeviceOpen : Prop :=
  (∀ (s : State) (d : TxDraw) (r : List TxDraw) (i : Instr),
    opOf i = none → wellFormed s.cfg i = true → s.cfg.Valid → s.txIn = d :: r → d.fail = none →
    s.busWidth ≠ modeWidth s.dev.mode →
      ∃ t, exec i s = .next t ∧ t.dev.sr = d.after.sr ∧ t.dev.readParam = d.after.readParam ∧
        t.dev.mode = d.after.mode ∧ t.dev.chip = s.dev.chip ∧ t.seq = seqAfter s.seq ∧
        (wip d.after.sr = true → ∀ x, x < capacity → deviceByte t.dev x = none) ∧
        (wip d.after.sr = false → ∀ x, x < capacity →
          (settle d.done s.dev).doubt.any (fun q => inRange q x) = false →
            deviceByte t.dev x = some (Config.freeContent d.after.content x))) ∧
  ∀ (s : State) (sr readParam : Byte),
    ∃ dev : Device, hostAct (.powerCycle sr readParam) s = .next { s with dev := dev } ∧
      dev.sr = sr ∧ dev.readParam = readParam ∧ dev.mode = .spi1 ∧ dev.chip = s.dev.chip ∧
      (∀ x, pendingAt s.dev.pending x = false → deviceByte dev x = deviceByte s.dev x) ∧
      ∀ x, x < capacity → pendingAt s.dev.pending x = true → deviceByte dev x = none

/-- Where a bus command stops: the spec gives a write or an erase past the array, and a device program longer than a
page, no effect (20_memory sections 1 and 4; log entry 21). -/
def Obligations.WritesPastTheArrayFault : Prop :=
  ∀ (s : State) (a : BusAddr) (v : List Byte),
    (capacity ≤ a.toNat →
      exec (.pp a v) s = .fault .addressOutsideArray ∧ exec (.ser a) s = .fault .addressOutsideArray ∧
      exec (.be32k a) s = .fault .addressOutsideArray ∧ exec (.be64k a) s = .fault .addressOutsideArray) ∧
    (a.toNat < capacity → pageSize < v.length → exec (.pp a v) s = .fault .programTooLong)

/-! ### Frames -/

/-- A well-formed bus command always completes, whatever the environment draws, and never changes the operand registers,
CMD, BUS_WIDTH, the parameters, the chip's facts, the host's side and the answers of busy queries (10_state section 2,
40_bus_primitives section 2). -/
def Obligations.BusCommandsCompleteAndKeepTheRegisters : Prop :=
  ∀ (s : State) (i : Instr), opOf i = none →
    (s.cfg.Valid → wellFormed s.cfg i = true → ∃ t, exec i s = .next t) ∧
    ∀ t, exec i s = .next t →
      t.addr = s.addr ∧ t.len = s.len ∧ t.index = s.index ∧ t.buf = s.buf ∧ t.cmd = s.cmd ∧
      t.busWidth = s.busWidth ∧ t.cfg = s.cfg ∧ t.dev.chip = s.dev.chip ∧ t.host = s.host ∧
      t.hostRead = s.hostRead ∧ t.busyIn = s.busyIn ∧ t.transportBusy = s.transportBusy

/-- What a bus command that succeeds changes of the sequencer: ID_BYTES by RDID, SR_BYTE by RDSR, nothing else; SEQ
advances and RESULT, LIFECYCLE and CTRL_BUSY stay (10_state section 3). What an abort left open ends with an RDSR that
shows WIP = 0, and with nothing else (70_reset R301; log entry 16). -/
def Obligations.SuccessfulBusCommandsKeepTheSequencer : Prop :=
  ∀ (s t : State) (d : TxDraw) (r : List TxDraw) (i : Instr),
    opOf i = none → s.txIn = d :: r → d.fail = none → exec i s = .next t →
      t.seq = seqAfter s.seq ∧ t.result = s.result ∧ t.lifecycle = s.lifecycle ∧ t.ctrlBusy = s.ctrlBusy ∧
      t.cursor = s.cursor ∧ t.pollCount = s.pollCount ∧ t.idleCount = s.idleCount ∧ t.drawn = s.drawn ∧
      (i ≠ .rdid → t.idBytes = s.idBytes) ∧ (i ≠ .rdsr → t.srByte = s.srByte ∧ t.afterAbort = s.afterAbort) ∧
      (i = .rdsr → ∃ b : Byte, t.srByte = some b ∧ t.afterAbort = (s.afterAbort && b.getLsbD 0))

/-- 10_state section 5 (block-protect bits, QE and the lock bit): no bus command that the device understands or ignores
writes bits 2 to 7 of the device status register, whether the transaction fails or not. -/
def Obligations.BusCommandsKeepTheProtectBits : Prop :=
  ∀ (s t : State) (i : Instr), opOf i = none → DeviceHeeds s i → exec i s = .next t →
    ∀ k, 2 ≤ k → t.dev.sr.getLsbD k = s.dev.sr.getLsbD k

/-- Every byte of the array outside the region of the write in progress is as before, whatever the environment draws of
a bus command that the device understands or ignores: the command itself stores nothing, the write it starts is carried
out when it completes (20_memory section 4; log entry 22). The bytes of a program in progress are those of `pageWrap`,
the ones `MemWrite` reaches; the region of an unknown write of an unconstrained device may be every byte. -/
def Obligations.BusCommandsKeepTheRestOfTheArray : Prop :=
  ∀ (s t : State) (i : Instr) (x : Nat),
    opOf i = none → memWf arrayDefault s.dev.array → DeviceHeeds s i → exec i s = .next t →
    s.dev.pending ≠ some .unknown →
    (∀ a v, s.dev.pending = some (.program a v) → ∀ j, j < v.length → pageWrap a j ≠ x) →
    (∀ g, s.dev.pending = some (.erase g) → x < g.base ∨ g.base + g.size ≤ x) →
      arrayByte t.dev x = arrayByte s.dev x

/-- Every byte of the host's memory is as before, except those a FRQIO of a READ receives (BUF from the window's offset,
as many as the window), and those READ leaves unspecified when it fails (44_read R218 and R220). -/
def Obligations.HostMemoryFrame : Prop :=
  ∀ (s t : State) (i : Instr), opOf i = none → memWf hostDefault s.hostMem → exec i s = .next t →
    (runningOp s ≠ some .read → t.hostMem = s.hostMem) ∧
    (∀ (w : Window) (b : Nat) (n : Word), runningOp s = some .read → currentWindow s = some w → s.buf = some b →
      s.len = some n → w.off + w.len ≤ n.toNat → (∀ a m, i = .frqio a m → m = w.len) →
        ∀ x, x < b + w.off ∨ b + n.toNat ≤ x → memGet hostDefault t.hostMem x = memGet hostDefault s.hostMem x) ∧
    (∀ (w : Window) (b : Nat) (d : TxDraw) (r : List TxDraw), runningOp s = some .read → currentWindow s = some w →
      s.buf = some b → s.txIn = d :: r → d.fail = none →
        (∀ a m, i = .frqio a m → ∀ x, x < b + w.off ∨ b + w.off + m ≤ x →
          memGet hostDefault t.hostMem x = memGet hostDefault s.hostMem x) ∧
        ((∀ a m, i ≠ .frqio a m) → t.hostMem = s.hostMem))

/-! ### Raising an error -/

/-- 60_exceptions R267: RESULT takes the code and the info, a running INIT becomes INIT_FAILED, SEQ is IDLE and
CTRL_BUSY 0; no bus event; BUS_WIDTH, ADDR, LEN, INDEX and BUF keep their values; the device is not touched. The
registers that exist only while an operation runs are gone (10_state R20). -/
def Obligations.RaiseEndsTheOperation : Prop :=
  ∀ (s : State) (code : Byte) (info : Info),
    (raiseError code info s).result = ⟨code, info⟩ ∧
    (runningOp s = some .init → (raiseError code info s).lifecycle = .initFailed) ∧
    (runningOp s ≠ some .init → (raiseError code info s).lifecycle = s.lifecycle) ∧
    (raiseError code info s).seq = .idle ∧ (raiseError code info s).ctrlBusy = false ∧
    busEvents (raiseError code info s).trace = busEvents s.trace ∧
    (raiseError code info s).busWidth = s.busWidth ∧ (raiseError code info s).addr = s.addr ∧
    (raiseError code info s).len = s.len ∧ (raiseError code info s).index = s.index ∧
    (raiseError code info s).buf = s.buf ∧ (raiseError code info s).dev = s.dev ∧
    (raiseError code info s).txIn = s.txIn ∧ (raiseError code info s).busyIn = s.busyIn ∧
    (raiseError code info s).cursor = none ∧ (raiseError code info s).idBytes = none ∧
    (raiseError code info s).srByte = none ∧ (raiseError code info s).pollCount = none ∧
    (raiseError code info s).idleCount = none

/-- 44_read R220: when the FRQIO of a READ's window fails, or its WaitIdle raises TIMEOUT, READ ends with the error, and
BUF[0 .. off) and every byte of the host outside BUF are as before; BUF[off .. n) holds free values, of which nothing is
said (log entry 20). -/
def Obligations.FailedReadKeepsTheWindowsBefore : Prop :=
  ∀ (s : State) (w : Window) (b : Nat) (n : Word),
    currentWindow s = some w → s.buf = some b → s.len = some n → memWf hostDefault s.hostMem →
      (∀ (d : TxDraw) (r : List TxDraw) (pc : Nat) (e : Nat) (k : Reach),
        s.seq = .at .read pc → s.txIn = d :: r → d.fail = some (e, k) →
          ∃ t, exec (.frqio (BitVec.ofNat 24 w.addr) w.len) s = .next t ∧
            t.result = ⟨1, .transport e s.cfg.opFrqio⟩ ∧ t.ctrlBusy = false ∧ t.seq = .idle ∧
            memWf hostDefault t.hostMem ∧
            ∀ x, x < b + w.off ∨ b + n.toNat ≤ x → memGet hostDefault t.hostMem x = memGet hostDefault s.hostMem x) ∧
      (∀ (r : List Bool) (k : Nat),
        Running s .read 2 → s.busyIn = true :: r → s.cfg.maxIdleQueries = some k → k ≤ s.idleCount.getD 0 + 1 →
          ∃ t, step s = .next t ∧
            t.result = ⟨4, .timeout .idle⟩ ∧ t.ctrlBusy = false ∧ t.seq = .idle ∧ memWf hostDefault t.hostMem ∧
            ∀ x, x < b + w.off ∨ b + n.toNat ≤ x → memGet hostDefault t.hostMem x = memGet hostDefault s.hostMem x)

/-! ### The sequencer's statements -/

/-- 44_read R216 and 45_program R231: the bounds check, from the CMD write on. READ and PROGRAM raise OUT_OF_RANGE, with
no bus event, exactly when `ADDR + LEN >= CAPACITY` on natural numbers; otherwise the next statement follows. Nothing
else changes but the trace, which takes the operation's end: RESULT and, for READ, BUF[0 .. LEN) (20_memory R92). -/
def Obligations.BoundsCheckIsExact : Prop :=
  ∀ (s : State) (r : List HostEvent) (op : Op) (code : Byte) (a n : Word),
    op = .read ∧ code = 0x06 ∨ op = .program ∧ code = 0x07 →
    s.cfg.Valid → s.host = .act (.writeCmd code) :: r → hostWaits r = true → s.ctrlBusy = false →
    s.lifecycle = .ready → s.cursor = none → s.addr = some a → s.len = some n →
    (a.toNat + n.toNat < 0x800000 →
      runSteps 2 s = .next { s with host := r, cmd := code, ctrlBusy := true, seq := .at op 1 }) ∧
    (0x800000 ≤ a.toNat + n.toNat →
      ∃ bs : List Byte,
        runSteps 2 s =
          .next { s with
            host := r, cmd := code, result := ⟨3, .none⟩, ctrlBusy := false, seq := .idle, pollCount := none,
            idleCount := none, idBytes := none, srByte := none, trace := s.trace ++ [.ended ⟨3, .none⟩ bs] } ∧
        (∀ b, op = .read → s.buf = some b →
          bs = (List.range n.toNat).map (fun i => memGet hostDefault s.hostMem (b + i))))

/-- 42_erase R187, with the unit maxima of R183 to R185, from the CMD write on: an index past the unit count raises
OUT_OF_RANGE before any bus event; a legal index, 0 and the last unit included, goes on. Nothing else changes. -/
def Obligations.IndexCheckIsExact : Prop :=
  ∀ (s : State) (r : List HostEvent) (op : Op) (code : Byte) (m : Nat) (n : Word),
    op = .eraseSector ∧ code = 0x03 ∧ m = 2047 ∨ op = .eraseBlock32K ∧ code = 0x04 ∧ m = 255 ∨
      op = .eraseBlock64K ∧ code = 0x05 ∧ m = 127 →
    s.cfg.Valid → s.host = .act (.writeCmd code) :: r → hostWaits r = true → s.ctrlBusy = false →
    s.lifecycle = .ready → s.cursor = none → s.index = some n →
    (n.toNat ≤ m → runSteps 2 s = .next { s with host := r, cmd := code, ctrlBusy := true, seq := .at op 1 }) ∧
    (m < n.toNat →
      runSteps 2 s =
        .next { s with
          host := r, cmd := code, result := ⟨3, .none⟩, ctrlBusy := false, seq := .idle, pollCount := none,
          idleCount := none, idBytes := none, srByte := none, trace := s.trace ++ [.ended ⟨3, .none⟩ []] })

/-- 42_erase R182: the unit address of a legal index, as the erase statement sends it: the index times the unit, below
CAPACITY, a multiple of the unit. -/
def Obligations.EraseAddressIsTheShiftedIndex : Prop :=
  ∀ (s : State) (n : Word), s.index = some n →
    (n.toNat ≤ 2047 → ∃ a : BusAddr, busCommand .eraseSector .erase s = .ok (.ser a) ∧ a.toNat = n.toNat * 4096 ∧
      a.toNat ≤ 0x7FF000) ∧
    (n.toNat ≤ 255 → ∃ a : BusAddr, busCommand .eraseBlock32K .erase s = .ok (.be32k a) ∧ a.toNat = n.toNat * 32768 ∧
      a.toNat ≤ 0x7F8000) ∧
    (n.toNat ≤ 127 → ∃ a : BusAddr, busCommand .eraseBlock64K .erase s = .ok (.be64k a) ∧ a.toNat = n.toNat * 65536 ∧
      a.toNat ≤ 0x7F0000)

/-- 41_init R163 with 30_encoding R115: the identity gate. Three equal bytes go on; any difference raises
IDENTITY_MISMATCH with the bytes read, and INIT_FAILED, with no further transaction and no width switch. -/
def Obligations.IdentityGate : Prop :=
  ∀ (s : State) (id : Ident), Running s .init 3 → s.cursor = none → s.idBytes = some id →
    (id.manufacturer = s.cfg.expectedId.manufacturer ∧ id.device = s.cfg.expectedId.device ∧
        id.capacity = s.cfg.expectedId.capacity →
      step s = .next { s with seq := .at .init 4 }) ∧
    (id.manufacturer ≠ s.cfg.expectedId.manufacturer ∨ id.device ≠ s.cfg.expectedId.device ∨
        id.capacity ≠ s.cfg.expectedId.capacity →
      step s =
        .next { s with
          lifecycle := .initFailed, result := ⟨2, .identity id⟩, ctrlBusy := false, seq := .idle,
          pollCount := none, idleCount := none, idBytes := none, srByte := none,
          trace := s.trace ++ [.ended ⟨2, .identity id⟩ []] })

/-- 40_bus_primitives R147: `SetWidth(w)` sets BUS_WIDTH and records the event; no transaction, nothing else. INIT calls
it exactly twice, with 1 as its first statement and with 4 right after QPIEN (41_init R161, R165); no other operation
does. -/
def Obligations.SetWidthSwitchesTheBus : Prop :=
  (∀ (s : State) (op : Op) (pc : Nat) (w : Width), Running s op pc → (ruleOf op)[pc]? = some (.setWidth w) →
    step s = .next { s with busWidth := w, seq := .at op (pc + 1), trace := s.trace ++ [.width w] }) ∧
  (∀ (op : Op) (pc : Nat) (w : Width), (ruleOf op)[pc]? = some (.setWidth w) →
    op = .init ∧ (pc = 0 ∧ w = .w1 ∨ pc = 6 ∧ w = .w4)) ∧
  (ruleOf .init)[0]? = some (.setWidth .w1) ∧ (ruleOf .init)[5]? = some (.issue .qpien) ∧
  (ruleOf .init)[6]? = some (.setWidth .w4)

/-- 40_bus_primitives R145: `WaitIdle()` under every answer. After `j` busy answers, fewer than the bound if there is
one, it has made `j` queries, issued no transaction and waits on; the first idle answer ends it; the k-th busy answer,
where MAX_IDLE_QUERIES is `some k`, raises TIMEOUT(IDLE) and no further query is made. With no bound it never does. -/
def Obligations.WaitIdleIsBoundedOnlyByItsParameter : Prop :=
  ∀ (s : State) (op : Op) (pc j : Nat) (bs : List Bool),
    Running s op pc → (ruleOf op)[pc]? = some .waitIdle → s.idleCount = none →
    (∀ k, s.cfg.maxIdleQueries = some k → j < k) →
    (s.busyIn = List.replicate j true ++ false :: bs →
      runSteps (j + 1) s = .next
        { s with
          busyIn := bs, transportBusy := false, seq := .at op (nextPc op pc),
          trace := s.trace ++ List.replicate j (.busy true) ++ [.busy false] }) ∧
    (s.busyIn = List.replicate (j + 1) true ++ bs →
      (s.cfg.maxIdleQueries = some (j + 1) →
        ∃ t, runSteps (j + 1) s = .next t ∧ t.result = ⟨4, .timeout .idle⟩ ∧ t.ctrlBusy = false ∧ t.seq = .idle ∧
          busEvents t.trace = busEvents s.trace ++ List.replicate (j + 1) (.busy true) ∧ t.busyIn = bs ∧
          t.txIn = s.txIn ∧ t.dev = s.dev) ∧
      (s.cfg.maxIdleQueries ≠ some (j + 1) →
        runSteps (j + 1) s = .next
          { s with
            busyIn := bs, transportBusy := true, idleCount := some (j + 1),
            trace := s.trace ++ List.replicate (j + 1) (.busy true) }))

/-- 46_status_poll R251: the poller tests bit 0 of the status byte alone. WIP = 0 ends the poll whatever the other bits
hold; WIP = 1 counts and reads again, or, at the bound, raises TIMEOUT(POLL). -/
def Obligations.PollTestsBitZeroAlone : Prop :=
  ∀ (s : State) (op : Op) (pc n : Nat) (b : Byte),
    Running s op (pc + 1) → (ruleOf op)[pc + 1]? = some .pollTest → s.srByte = some b → s.pollCount = some n →
    (b.getLsbD 0 = false → step s = .next
      { s with srByte := none, pollCount := none, seq := .at op (nextPc op (pc + 1)) }) ∧
    (b.getLsbD 0 = true →
      (∀ k, s.cfg.maxPolls = some k → n + 1 < k) → step s = .next
        { s with pollCount := some (n + 1), seq := .at op pc }) ∧
    (b.getLsbD 0 = true → ∀ k, s.cfg.maxPolls = some k → k ≤ n + 1 →
      ∃ t, step s = .next t ∧ t.result = ⟨4, .timeout .poll⟩ ∧ t.ctrlBusy = false ∧
        t.seq = .idle ∧ busEvents t.trace = busEvents s.trace ∧ t.txIn = s.txIn ∧ t.dev = s.dev)

/-- 46_status_poll R252: with MAX_POLLS = none the poll has no bound: for every `n`, a device that shows WIP = 1 at each
of `n` status reads keeps the operation running, RESULT unwritten, at the head of the poll. -/
def Obligations.UnboundedPollNeverEnds : Prop :=
  ∀ (ds r : List TxDraw) (s : State) (op : Op) (pc : Nat),
    Running s op pc → s.cfg.maxPolls = none →
    (ruleOf op)[pc]? = some (.issue .rdsr) → (ruleOf op)[pc + 1]? = some .pollTest →
    s.txIn = ds ++ r → (∀ d ∈ ds, d.fail = none ∧ ∃ b : Byte, d.answer = some [b] ∧ b.getLsbD 0 = true) →
      ∃ t, runSteps (2 * ds.length) s = .next t ∧ t.seq = .at op pc ∧ t.ctrlBusy = true ∧ t.result = s.result ∧
        t.lifecycle = s.lifecycle ∧ t.txIn = r ∧ t.pollCount.getD 0 = s.pollCount.getD 0 + ds.length ∧
        (busEvents t.trace).length = (busEvents s.trace).length + ds.length

/-! ### The chunker -/

/-- 43_chunker R201 and R202: every window has 1 to CHUNK bytes; windows are consecutive and cover the request exactly,
in ascending order, each at its offset in BUF. -/
def Obligations.WindowsCoverTheRequestExactly : Prop :=
  ∀ (c a n : Nat), 0 < c →
    (∀ w ∈ chunks c a n, 1 ≤ w.len ∧ w.len ≤ c) ∧
    (∀ w, (chunks c a n)[0]? = some w → w.addr = a) ∧
    (∀ (k : Nat) (w v : Window), (chunks c a n)[k]? = some w → (chunks c a n)[k + 1]? = some v →
      v.addr = w.addr + w.len) ∧
    (∀ w ∈ chunks c a n, a ≤ w.addr ∧ w.off = w.addr - a ∧ w.addr + w.len ≤ a + n) ∧
    ((chunks c a n).map (fun w => w.len)).sum = n ∧
    (∀ x, a ≤ x → x < a + n → ∃ w ∈ chunks c a n, w.addr ≤ x ∧ x < w.addr + w.len) ∧
    (chunks c a n).Pairwise (fun w v => w.addr + w.len ≤ v.addr)

/-- 43_chunker R203: every window after the first starts at a multiple of CHUNK, every window before the last ends at
one, and no window holds bytes on both sides of one. -/
def Obligations.WindowsAreAligned : Prop :=
  ∀ (c a n : Nat), 0 < c →
    (∀ (k : Nat) (w : Window), (chunks c a n)[k + 1]? = some w → w.addr % c = 0) ∧
    (∀ (k : Nat) (w : Window), (chunks c a n)[k]? = some w → k + 1 < (chunks c a n).length →
      (w.addr + w.len) % c = 0) ∧
    (∀ w ∈ chunks c a n, ∀ x y, w.addr ≤ x → x < y → y < w.addr + w.len → x / c = y / c)

/-- 43_chunker R204: no window crosses a page boundary, for every CHUNK that divides PAGE_SIZE; so the page wrap of
`MemWrite` is never exercised: byte `i` of a window is programmed at its own address. -/
def Obligations.NoWindowCrossesAPage : Prop :=
  ∀ (c a n : Nat) (w : Window), 0 < c → 256 % c = 0 → w ∈ chunks c a n →
    pageOf w.addr = pageOf (w.addr + w.len - 1) ∧ ∀ i, i < w.len → pageWrap w.addr i = w.addr + i

/-- 43_chunker R205 and R206: the number of windows; none for a request of no bytes. -/
def Obligations.WindowCount : Prop :=
  ∀ (c a n : Nat), 0 < c →
    (n = 0 → chunks c a n = []) ∧ (0 < n → (chunks c a n).length = (a + n - 1) / c - a / c + 1)

/-! ### Invariants -/

/-- Every step keeps the invariant of the machine, from every state that meets it: SEQ never points outside its rule and
the hidden registers exist when they should (10_state section 3), BUS_WIDTH is 4 when READY outside INIT
(40_bus_primitives section 1), memory and array stay in canonical form, WIP = 1 exactly while a write is in progress,
and RESULT.CODE is one of the seven codes (30_encoding section 5). -/
def Obligations.StepKeepsInv : Prop :=
  ∀ s t : State, Inv s → step s = .next t → Inv t

/-- The state right after reset meets the invariant. Its device part is about the presumed reset values of the device:
the model's, not the spec's (log entry 9). -/
def Obligations.ResetMeetsInv : Prop := Inv State.reset

/-- In a state that meets the invariant the only faults are reads of operand registers never written (10_state section
2): SEQ never leaves its rule, no hidden register is read where it does not exist, no address past the array is sent. -/
def Obligations.OnlyUnsetOperandsFault : Prop :=
  ∀ (s : State) (f : Fault), Inv s → step s = .fault f → ∃ r, f = .unsetOperand r

/-- 30_encoding R111: whatever the environment answers, every transaction a step puts on the bus is one of the eleven
commands, in its format, at its width and with the operands FLASHCTRL issues. -/
def Obligations.StepEmitsOnlyTheElevenCommands : Prop :=
  ∀ s t : State, Inv s → TraceDecodes s.cfg s.trace → step s = .next t → TraceDecodes t.cfg t.trace

/-- No step changes the parameters (10_state section 1), the chip's facts, or an event already in the trace. -/
def Obligations.StepKeepsTheParameters : Prop :=
  ∀ s t : State, step s = .next t → t.cfg = s.cfg ∧ t.dev.chip = s.dev.chip ∧ ∃ e, t.trace = s.trace ++ e

/-- While the host waits no step writes ADDR, LEN, INDEX or BUF's reference, LIFECYCLE and BUS_WIDTH change only while
INIT runs, and, from a state that meets the invariant, RESULT changes only when CTRL_BUSY goes to 0 (10_state section 2,
70_reset section 1). An operation other than READ that ends with TRANSPORT_ERROR or TIMEOUT leaves the device open, and
nothing else does (70_reset R301; log entry 16). -/
def Obligations.OnlyInitWritesLifecycleAndWidth : Prop :=
  ∀ s t : State, hostWaits s.host = true → step s = .next t →
    t.addr = s.addr ∧ t.len = s.len ∧ t.index = s.index ∧ t.buf = s.buf ∧ t.cmd = s.cmd ∧
    (runningOp s ≠ some .init → t.lifecycle = s.lifecycle ∧ t.busWidth = s.busWidth) ∧
    (s.ctrlBusy = true ∨ Inv s → t.ctrlBusy = s.ctrlBusy → t.result = s.result) ∧
    (s.afterAbort = false →
      (t.afterAbort = true ↔
        t.seq = .idle ∧ (t.result.code = 1 ∨ t.result.code = 4) ∧
          ∃ op, runningOp s = some op ∧ op ≠ .read))

/-! ### Whole operations, from the CMD write to RESULT -/

/-- 41_init R172, under every answer of the environment: an INIT whose transport answers `b` times busy, whose identity
read returns EXPECTED_ID and whose status reads show WIP = 1 `p` times and then WIP = 0 has exactly R172's trace, with
`b` more busy events and `p` more RDSR events, and ends with READY, BUS_WIDTH 4 and RESULT (OK, none). The number of
steps is log entry 2's. -/
def Obligations.InitHasTheSpecifiedTrace : Prop :=
  ∀ (s : State) (r : List HostEvent) (b : Nat) (bs : List Bool) (polls : List Byte) (z : Byte)
    (d1 d2 d3 d4 d5 : TxDraw) (ds : List TxDraw) (dz : TxDraw) (rest : List TxDraw),
    Inv s → s.cfg.Valid → s.ctrlBusy = false → s.lifecycle ≠ .ready →
    s.host = .act (.writeCmd 0x01) :: r → hostWaits r = true →
    s.busyIn = List.replicate b true ++ false :: bs → (∀ k, s.cfg.maxIdleQueries = some k → b < k) →
    s.txIn = [d1, d2, d3, d4, d5] ++ ds ++ dz :: rest →
    (∀ d ∈ [d1, d2, d3, d4, d5] ++ ds ++ [dz], d.fail = none) →
    d1.answer = some [s.cfg.expectedId.manufacturer, s.cfg.expectedId.device, s.cfg.expectedId.capacity] →
    ds.map (fun d => d.answer) = polls.map (fun x => some [x]) → (∀ x ∈ polls, x.getLsbD 0 = true) →
    dz.answer = some [z] → z.getLsbD 0 = false → (∀ k, s.cfg.maxPolls = some k → polls.length < k) →
      ∃ t, runSteps (13 + b + 2 * polls.length) s = .next t ∧
        t.lifecycle = .ready ∧ t.busWidth = .w4 ∧ t.result = ⟨0, .none⟩ ∧ t.ctrlBusy = false ∧ t.seq = .idle ∧
        t.host = r ∧ t.txIn = rest ∧ t.busyIn = bs ∧
        busEvents t.trace = busEvents s.trace ++
          [.width .w1,
           .tx ⟨.w1, 0x9F, none, none, 0, [], 3⟩
             (.ok [s.cfg.expectedId.manufacturer, s.cfg.expectedId.device, s.cfg.expectedId.capacity])] ++
          List.replicate b (.busy true) ++
          [.busy false, .tx ⟨.w1, s.cfg.opWren, none, none, 0, [], 0⟩ (.ok []),
           .tx ⟨.w1, s.cfg.opQpien, none, none, 0, [], 0⟩ (.ok []), .width .w4,
           .tx ⟨.w4, s.cfg.opWren, none, none, 0, [], 0⟩ (.ok []),
           .tx ⟨.w4, s.cfg.opSrp, none, none, 0, [s.cfg.readParamValue], 0⟩ (.ok [])] ++
          polls.map (fun x => .tx ⟨.w4, s.cfg.opRdsr, none, none, 0, [], 1⟩ (.ok [x])) ++
          [.tx ⟨.w4, s.cfg.opRdsr, none, none, 0, [], 1⟩ (.ok [z])]

/-- INIT with the attached device (41_init, 20_memory section 4): on an idle device in SPI1 whose identity is
EXPECTED_ID, with a transport that returns what the device answers, INIT ends READY and leaves the device in QPI4, idle,
with READ_PARAM_VALUE in its read-parameter register and its array as it was. The number of steps is log entry 2's. -/
def Obligations.InitReadiesTheDevice : Prop :=
  ∀ (s : State) (r : List HostEvent) (b : Nat) (bs : List Bool) (d1 d2 d3 d4 d5 : TxDraw) (ds : List TxDraw)
    (dz : TxDraw) (rest : List TxDraw),
    Inv s → s.cfg.Valid → s.ctrlBusy = false → s.lifecycle ≠ .ready →
    s.host = .act (.writeCmd 0x01) :: r → hostWaits r = true →
    s.dev.mode = .spi1 → wip s.dev.sr = false → s.dev.chip.ident = s.cfg.expectedId →
    s.busyIn = List.replicate b true ++ false :: bs → (∀ k, s.cfg.maxIdleQueries = some k → b < k) →
    s.txIn = [d1, d2, d3, d4, d5] ++ ds ++ dz :: rest →
    (∀ d ∈ [d1, d2, d3, d4, d5] ++ ds ++ [dz], CleanDraw d) →
    (d5.srpSetsWip = true ∨ ds = []) → (∀ d ∈ ds, d.done = false) → dz.done = true →
    (∀ k, s.cfg.maxPolls = some k → ds.length < k) →
      ∃ t, runSteps (13 + b + 2 * ds.length) s = .next t ∧
        t.lifecycle = .ready ∧ t.busWidth = .w4 ∧ t.result = ⟨0, .none⟩ ∧ t.ctrlBusy = false ∧
        t.dev.mode = .qpi4 ∧ wip t.dev.sr = false ∧ t.dev.pending = none ∧
        t.dev.readParam = s.cfg.readParamValue ∧ (∀ x, arrayByte t.dev x = arrayByte s.dev x) ∧ t.dev.doubt = s.dev.doubt ∧
        t.txIn = rest

/-- 42_erase R188: an erase that ends OK on a device whose protect bits do not cover the region leaves 0xFF in every
byte of its region and no byte outside it changed; with `b` busy answers and as many status reads showing WIP = 1 as
`ds` has draws. Its trace is that of 42_erase R180; the number of steps is log entry 2's. -/
def Obligations.EraseErasesItsRegion : Prop :=
  ∀ (s : State) (r : List HostEvent) (b : Nat) (bs : List Bool) (dw de dz : TxDraw) (ds rest : List TxDraw)
    (op : Op) (code : Byte) (g : Range) (c : Byte) (o : Option BusAddr) (k0 : Nat),
    Inv s → s.cfg.Valid → s.ctrlBusy = false → s.lifecycle = .ready →
    (op = .eraseChip ∧ code = 0x02 ∧ g = ⟨0, 0x800000⟩ ∧ c = s.cfg.opCer ∧ o = none ∧ k0 = 0 ∨
     (∃ n : Word, s.index = some n ∧ k0 = 1 ∧
       (op = .eraseSector ∧ code = 0x03 ∧ n.toNat ≤ 2047 ∧ g = ⟨n.toNat * 4096, 4096⟩ ∧ c = s.cfg.opSer ∨
        op = .eraseBlock32K ∧ code = 0x04 ∧ n.toNat ≤ 255 ∧ g = ⟨n.toNat * 32768, 32768⟩ ∧ c = s.cfg.opBe32k ∨
        op = .eraseBlock64K ∧ code = 0x05 ∧ n.toNat ≤ 127 ∧ g = ⟨n.toNat * 65536, 65536⟩ ∧ c = s.cfg.opBe64k) ∧
       o = some (BitVec.ofNat 24 g.base))) →
    s.host = .act (.writeCmd code) :: r → hostWaits r = true →
    s.dev.mode = .qpi4 → wip s.dev.sr = false →
    (∀ x, g.base ≤ x → x < g.base + g.size → protectedAt s.dev x = false) →
    s.busyIn = List.replicate b true ++ false :: bs → (∀ k, s.cfg.maxIdleQueries = some k → b < k) →
    s.txIn = [dw, de] ++ ds ++ dz :: rest → (∀ d ∈ [dw, de] ++ ds ++ [dz], CleanDraw d) →
    (∀ d ∈ ds, d.done = false) → dz.done = true → (∀ k, s.cfg.maxPolls = some k → ds.length < k) →
      ∃ (t : State) (busy idle : Byte),
        runSteps (7 + k0 + b + 2 * ds.length) s = .next t ∧
        t.result = ⟨0, .none⟩ ∧ t.ctrlBusy = false ∧ t.seq = .idle ∧ t.lifecycle = .ready ∧ t.txIn = rest ∧
        (∀ x, g.base ≤ x → x < g.base + g.size → deviceByte t.dev x = some 0xFF) ∧
        (∀ x, x < g.base ∨ g.base + g.size ≤ x → deviceByte t.dev x = deviceByte s.dev x) ∧
        busy.getLsbD 0 = true ∧ idle.getLsbD 0 = false ∧ idle.getLsbD 1 = false ∧ t.dev.sr = idle ∧
        busEvents t.trace = busEvents s.trace ++
          [.tx ⟨.w4, s.cfg.opWren, none, none, 0, [], 0⟩ (.ok [])] ++ List.replicate b (.busy true) ++
          [.busy false, .tx ⟨.w4, c, o, none, 0, [], 0⟩ (.ok [])] ++
          List.replicate ds.length (.tx ⟨.w4, s.cfg.opRdsr, none, none, 0, [], 1⟩ (.ok [busy])) ++
          [.tx ⟨.w4, s.cfg.opRdsr, none, none, 0, [], 1⟩ (.ok [idle])]

/-- 44_read R218: at the end of a READ, BUF[i] holds the byte the device returned for address ADDR + i, for every i
below LEN, with one FRQIO per window of the chunker; no other byte of the host and nothing of the device changes. The
transport is idle at each query; `WaitIdleIsBoundedOnlyByItsParameter` states what busy answers add. The number of steps
is log entry 2's. -/
def Obligations.ReadFillsTheBuffer : Prop :=
  ∀ (s : State) (r : List HostEvent) (a n : Word) (p : Nat) (bs : List Bool) (ds rest : List TxDraw) (v : Nat → Byte),
    Inv s → s.cfg.Valid → s.ctrlBusy = false → s.lifecycle = .ready →
    s.host = .act (.writeCmd 0x06) :: r → hostWaits r = true →
    s.addr = some a → s.len = some n → s.buf = some p → a.toNat + n.toNat < 0x800000 →
    s.dev.mode = .qpi4 → wip s.dev.sr = false → dummyAgrees s.dev = true →
    (∀ i, i < n.toNat → deviceByte s.dev (a.toNat + i) = some (v i)) →
    s.busyIn = List.replicate (chunks s.cfg.chunk a.toNat n.toNat).length false ++ bs →
    s.txIn = ds ++ rest → ds.length = (chunks s.cfg.chunk a.toNat n.toNat).length → (∀ d ∈ ds, CleanDraw d) →
      ∃ t, runSteps (4 + 3 * (chunks s.cfg.chunk a.toNat n.toNat).length) s = .next t ∧
        t.result = ⟨0, .none⟩ ∧ t.ctrlBusy = false ∧ t.seq = .idle ∧ t.lifecycle = .ready ∧ t.dev = s.dev ∧
        t.txIn = rest ∧ t.busyIn = bs ∧
        (∀ i, i < n.toNat → memGet hostDefault t.hostMem (p + i) = v i) ∧
        (∀ x, x < p ∨ p + n.toNat ≤ x → memGet hostDefault t.hostMem x = memGet hostDefault s.hostMem x) ∧
        busEvents t.trace = busEvents s.trace ++
          (chunks s.cfg.chunk a.toNat n.toNat).flatMap (fun w =>
            [.busy false,
             .tx ⟨.w4, s.cfg.opFrqio, some (BitVec.ofNat 24 w.addr), some 0x00, 8, [], w.len⟩
               (.ok ((List.range w.len).map (fun j => v (w.off + j))))])

/-- 45_program R233: when PROGRAM ends with OK on a device whose protect bits do not cover the request, the byte at ADDR
+ i holds its old value ANDed with BUF[i], for every i below LEN, and no other byte changes; each window is WREN, an
idle wait, PP and the poll, in this order. The transport is idle at each query and each write has completed at its first
status read. The number of steps is log entry 2's. -/
def Obligations.ProgramAndsTheData : Prop :=
  ∀ (s : State) (r : List HostEvent) (a n : Word) (p : Nat) (bs : List Bool) (ds rest : List TxDraw)
    (old : Nat → Byte),
    Inv s → s.cfg.Valid → s.ctrlBusy = false → s.lifecycle = .ready →
    s.host = .act (.writeCmd 0x07) :: r → hostWaits r = true →
    s.addr = some a → s.len = some n → s.buf = some p → a.toNat + n.toNat < 0x800000 →
    s.dev.mode = .qpi4 → wip s.dev.sr = false → (∀ i, i < n.toNat → protectedAt s.dev (a.toNat + i) = false) →
    (∀ i, i < n.toNat → deviceByte s.dev (a.toNat + i) = some (old i)) →
    s.busyIn = List.replicate (chunks s.cfg.chunk a.toNat n.toNat).length false ++ bs →
    s.txIn = ds ++ rest → ds.length = 3 * (chunks s.cfg.chunk a.toNat n.toNat).length →
    (∀ d ∈ ds, CleanDraw d ∧ d.done = true) →
      ∃ (t : State) (z : Byte),
        runSteps (4 + 6 * (chunks s.cfg.chunk a.toNat n.toNat).length) s = .next t ∧
        t.result = ⟨0, .none⟩ ∧ t.ctrlBusy = false ∧ t.seq = .idle ∧ t.lifecycle = .ready ∧
        t.hostMem = s.hostMem ∧ t.txIn = rest ∧ t.busyIn = bs ∧
        (∀ i, i < n.toNat →
          deviceByte t.dev (a.toNat + i) = some (old i &&& memGet hostDefault s.hostMem (p + i))) ∧
        (∀ x, x < a.toNat ∨ a.toNat + n.toNat ≤ x → deviceByte t.dev x = deviceByte s.dev x) ∧
        wip t.dev.sr = false ∧ z.getLsbD 0 = false ∧ z.getLsbD 1 = false ∧
        busEvents t.trace = busEvents s.trace ++
          (chunks s.cfg.chunk a.toNat n.toNat).flatMap (fun w =>
            [.tx ⟨.w4, s.cfg.opWren, none, none, 0, [], 0⟩ (.ok []), .busy false,
             .tx ⟨.w4, s.cfg.opPp, some (BitVec.ofNat 24 w.addr), none, 0,
               (List.range w.len).map (fun j => memGet hostDefault s.hostMem (p + w.off + j)), 0⟩ (.ok []),
             .tx ⟨.w4, s.cfg.opRdsr, none, none, 0, [], 1⟩ (.ok [z])])
end

