-- ==== Sys2Proof/Laws/Memory.lean ====
section
/-! SUPPORT. The laws of memory: a read after a write, and that every operation keeps the canonical form. -/
namespace Sys2Proof.Machine
open Sys2Proof

theorem memWf_nil (d : Byte) : memWf d [] := by simp [memWf]

theorem memWf_tail {d : Byte} {c : Host.Cell} {m : Mem} (h : memWf d (c :: m)) : memWf d m :=
  ⟨(List.pairwise_cons.mp h.1).2, fun x hx => h.2 x (List.mem_cons_of_mem _ hx)⟩

theorem memWf_cons {d : Byte} {c : Host.Cell} {m : Mem} :
    memWf d (c :: m) ↔ (∀ x ∈ m, c.1 < x.1) ∧ c.2 ≠ d ∧ memWf d m := by
  simp only [memWf, List.pairwise_cons, List.mem_cons, forall_eq_or_imp]
  tauto

/-- An address that no cell lists reads as the default. -/
theorem memGet_of_not_listed {d : Byte} {m : Mem} {a : Nat} (h : ∀ c ∈ m, c.1 ≠ a) : memGet d m a = d := by
  induction m with
  | nil => rfl
  | cons c m ih =>
    simp only [memGet, if_neg (h c (List.mem_cons_self ..))]
    exact ih fun x hx => h x (List.mem_cons_of_mem _ hx)

/-- A listed cell of a canonical memory is what its address reads as. -/
theorem memGet_of_mem {d : Byte} {m : Mem} (hm : memWf d m) {c : Host.Cell} (hc : c ∈ m) : memGet d m c.1 = c.2 := by
  induction m with
  | nil => cases hc
  | cons x m ih =>
    rcases List.mem_cons.mp hc with rfl | hc'
    · simp [memGet]
    · have hlt := (memWf_cons.mp hm).1 c hc'
      simp only [memGet, if_neg (Nat.ne_of_lt hlt)]
      exact ih (memWf_tail hm) hc'

/-- A canonical memory lists exactly the addresses that do not read as the default. -/
theorem memGet_ne_default {d : Byte} {m : Mem} (hm : memWf d m) {a : Nat} :
    memGet d m a ≠ d ↔ ∃ c ∈ m, c.1 = a := by
  constructor
  · intro h
    by_contra hn
    exact h (memGet_of_not_listed fun c hc he => hn ⟨c, hc, he⟩)
  · rintro ⟨c, hc, rfl⟩
    rw [memGet_of_mem hm hc]
    exact hm.2 c hc

/-- Every cell after a write is the written one or was there before. -/
theorem mem_memSet {d : Byte} {m : Mem} {a : Nat} {b : Byte} {c : Host.Cell} (h : c ∈ memSet d m a b) :
    (c = (a, b) ∧ b ≠ d) ∨ c ∈ m := by
  induction m with
  | nil =>
    simp only [memSet] at h
    split at h <;> simp_all
  | cons x m ih =>
    obtain ⟨k, v⟩ := x
    simp only [memSet] at h
    split_ifs at h <;> simp only [List.mem_cons] at h ⊢
    all_goals tauto

theorem memWf_memSet {d : Byte} {m : Mem} (hm : memWf d m) (a : Nat) (b : Byte) : memWf d (memSet d m a b) := by
  induction m with
  | nil => simp only [memSet]; split_ifs with h <;> simp [memWf, h]
  | cons x m ih =>
    obtain ⟨k, v⟩ := x
    obtain ⟨hlt, hne, htl⟩ := memWf_cons.mp hm
    simp only [memSet]
    split_ifs with h1 h2 h2 h3
    · exact hm
    · refine memWf_cons.mpr ⟨?_, h2, hm⟩
      intro y hy
      rcases List.mem_cons.mp hy with rfl | hy'
      · exact h1
      · exact Nat.lt_trans h1 (hlt y hy')
    · exact htl
    · subst h2
      exact memWf_cons.mpr ⟨hlt, h3, htl⟩
    · refine memWf_cons.mpr ⟨?_, hne, ih htl⟩
      intro y hy
      rcases mem_memSet hy with ⟨rfl, _⟩ | hy'
      · simp only; omega
      · exact hlt y hy'

/-- Read after write: the written byte, and every other byte as before. -/
theorem memGet_memSet {d : Byte} {m : Mem} (hm : memWf d m) (a x : Nat) (b : Byte) :
    memGet d (memSet d m a b) x = if x = a then b else memGet d m x := by
  induction m with
  | nil => simp only [memSet]; split_ifs with h1 h2 h2 <;> simp_all [memGet, eq_comm]
  | cons c m ih =>
    obtain ⟨k, v⟩ := c
    obtain ⟨hlt, hne, htl⟩ := memWf_cons.mp hm
    have hout : ∀ y, y < k → memGet d m y = d := fun y hy =>
      memGet_of_not_listed fun z hz => by have := hlt z hz; simp only at this; omega
    have hk : memGet d m k = d := memGet_of_not_listed fun z hz => by have := hlt z hz; simp only at this; omega
    simp only [memSet]
    split_ifs with h1 h2 hx h3 hx hx hx <;> simp_all [memGet]
    all_goals first
      | (split_ifs <;> simp_all)
      | (by_cases hkx : k = x <;> simp_all <;> omega)

theorem memWf_memWrite {d : Byte} {m : Mem} (hm : memWf d m) (a : Nat) (bs : List Byte) :
    memWf d (memWrite d m a bs) := by
  induction bs generalizing m a with
  | nil => exact hm
  | cons b bs ih => exact ih (memWf_memSet hm a b) (a + 1)

/-- Read after a write of bytes at successive addresses. -/
theorem memGet_memWrite {d : Byte} {m : Mem} (hm : memWf d m) (a x : Nat) (bs : List Byte) :
    memGet d (memWrite d m a bs) x = if a ≤ x ∧ x < a + bs.length then bs.getD (x - a) 0 else memGet d m x := by
  induction bs generalizing m a with
  | nil =>
    rw [if_neg (by simp only [List.length_nil]; omega)]
    rfl
  | cons b bs ih =>
    rw [memWrite, ih (memWf_memSet hm a b), memGet_memSet hm]
    by_cases h : x = a
    · subst h; simp
    · by_cases h2 : a + 1 ≤ x ∧ x < a + 1 + bs.length
      · have h3 : a ≤ x ∧ x < a + (b :: bs).length := by simp; omega
        obtain ⟨k, hk⟩ : ∃ k, x - a = k + 1 := ⟨x - a - 1, by omega⟩
        have hk' : x - (a + 1) = k := by omega
        rw [if_pos h2, if_pos h3, hk, hk', List.getD_cons_succ]
      · have h3 : ¬(a ≤ x ∧ x < a + (b :: bs).length) := by simp; omega
        rw [if_neg h2, if_neg h3, if_neg h]

theorem memWf_filter {d : Byte} {m : Mem} (hm : memWf d m) (p : Host.Cell → Bool) : memWf d (m.filter p) :=
  ⟨hm.1.filter p, fun c hc => hm.2 c (List.mem_filter.mp hc).1⟩

theorem memWf_memClear {d : Byte} {m : Mem} (hm : memWf d m) (p : Nat → Bool) : memWf d (memClear m p) :=
  memWf_filter hm _

/-- Read after a clear. -/
theorem memGet_memClear {d : Byte} (m : Mem) (p : Nat → Bool) (x : Nat) :
    memGet d (memClear m p) x = if p x then d else memGet d m x := by
  induction m with
  | nil => simp [memClear, memGet]
  | cons c m ih =>
    obtain ⟨k, v⟩ := c
    simp only [memClear] at ih ⊢
    by_cases hp : p k
    · simp only [List.filter_cons, hp, Bool.not_true, Bool.false_eq_true, if_false, ih, memGet]
      by_cases hk : k = x
      · subst hk; simp [hp]
      · simp [hk]
    · simp only [List.filter_cons, hp, Bool.not_false, if_true, memGet, ih]
      by_cases hk : k = x
      · subst hk; simp [hp]
      · simp [hk]

/-- Reading from two memories in a row: the first that does not read as the default. -/
theorem memGet_append {d : Byte} {m₁ : Mem} (h : ∀ c ∈ m₁, c.2 ≠ d) (m₂ : Mem) (x : Nat) :
    memGet d (m₁ ++ m₂) x = if memGet d m₁ x = d then memGet d m₂ x else memGet d m₁ x := by
  induction m₁ with
  | nil => simp [memGet]
  | cons c m ih =>
    obtain ⟨k, v⟩ := c
    have hv : v ≠ d := h (k, v) (List.mem_cons_self ..)
    have htl := ih fun c hc => h c (List.mem_cons_of_mem _ hc)
    by_cases hk : k = x <;> simp [memGet, hk, htl, hv]

theorem memWf_append {d : Byte} {m₁ m₂ : Mem} (h₁ : memWf d m₁) (h₂ : memWf d m₂)
    (h : ∀ x ∈ m₁, ∀ y ∈ m₂, x.1 < y.1) : memWf d (m₁ ++ m₂) :=
  ⟨List.pairwise_append.mpr ⟨h₁.1, h₂.1, h⟩, fun c hc => by
    rcases List.mem_append.mp hc with hc | hc
    · exact h₁.2 c hc
    · exact h₂.2 c hc⟩

theorem memWf_memFill {d : Byte} {m : Mem} (hm : memWf d m) (a n : Nat) (f : Nat → Byte) :
    memWf d (memFill d m a n f) := by
  have hmid : memWf d (((List.range n).map (fun i => (a + i, f i))).filter (fun c => c.2 != d)) := by
    refine ⟨List.Pairwise.filter _ ?_, fun c hc => by simpa using (List.mem_filter.mp hc).2⟩
    rw [List.pairwise_map]
    exact List.pairwise_lt_range.imp fun h => by simpa using h
  unfold memFill
  refine memWf_append (memWf_append (memWf_filter hm _) hmid ?_) (memWf_filter hm _) ?_
  · intro x hx y hy
    simp only [List.mem_filter, List.mem_map, List.mem_range, decide_eq_true_eq] at hx hy
    obtain ⟨⟨i, _, rfl⟩, _⟩ := hy
    simp only; omega
  · intro x hx y hy
    simp only [List.mem_append, List.mem_filter, List.mem_map, List.mem_range, decide_eq_true_eq] at hx hy
    rcases hx with ⟨_, hx⟩ | ⟨⟨i, hi, rfl⟩, _⟩
    · omega
    · simp only; omega

theorem memGet_map_range {d : Byte} (a n : Nat) (f : Nat → Byte) (x : Nat) :
    memGet d (((List.range n).map (fun i => (a + i, f i))).filter (fun c => c.2 != d)) x
      = if a ≤ x ∧ x < a + n then f (x - a) else d := by
  induction n with
  | zero =>
    rw [if_neg (by omega)]
    rfl
  | succ n ih =>
    rw [List.range_succ, List.map_append, List.filter_append,
      memGet_append (fun c hc => by simpa using (List.mem_filter.mp hc).2), ih]
    have hlast : memGet d (([n].map (fun i => (a + i, f i))).filter (fun c => c.2 != d)) x
        = if x = a + n then f n else d := by
      by_cases hx : x = a + n
      · by_cases hd : f n = d <;> simp [memGet, hd, hx]
      · have hx' : ¬a + n = x := fun h => hx h.symm
        by_cases hd : f n = d <;> simp [memGet, hd, hx, hx']
    rw [hlast]
    by_cases hx : x = a + n
    · subst hx
      simp
    · by_cases hin : a ≤ x ∧ x < a + n
      · rw [if_pos hin, if_pos (show a ≤ x ∧ x < a + (n + 1) by omega), if_neg hx]
        split_ifs with h
        · exact h.symm
        · rfl
      · rw [if_neg hin, if_pos rfl, if_neg hx, if_neg (show ¬(a ≤ x ∧ x < a + (n + 1)) by omega)]

/-- Read after a fill. -/
theorem memGet_memFill {d : Byte} {m : Mem} (hm : memWf d m) (a n : Nat) (f : Nat → Byte) (x : Nat) :
    memGet d (memFill d m a n f) x = if a ≤ x ∧ x < a + n then f (x - a) else memGet d m x := by
  have part : ∀ p : Nat → Bool, memGet d (m.filter (fun c => p c.1)) x = if p x then memGet d m x else d := by
    intro p
    have h := memGet_memClear (d := d) m (fun y => !p y) x
    simp only [memClear, Bool.not_not] at h
    rw [h]
    cases p x <;> simp
  have lo := part (fun y => decide (y < a))
  have hi := part (fun y => decide (a + n ≤ y))
  unfold memFill
  rw [memGet_append, memGet_append (memWf_filter hm _).2, memGet_map_range, lo, hi]
  · simp only [decide_eq_true_eq]
    by_cases h1 : x < a
    · have h2 : ¬(a ≤ x ∧ x < a + n) := by omega
      have h3 : ¬a + n ≤ x := by omega
      simp only [h1, h2, h3, if_true, if_false]
      split_ifs <;> simp_all
    · by_cases h2 : x < a + n
      · have h3 : a ≤ x ∧ x < a + n := ⟨by omega, h2⟩
        have h4 : ¬a + n ≤ x := by omega
        simp only [h1, h3, h4, if_true, if_false, and_self]
        split_ifs <;> simp_all
      · have h3 : ¬(a ≤ x ∧ x < a + n) := by omega
        have h4 : a + n ≤ x := by omega
        simp only [h1, h3, h4, if_true, if_false]
  · intro c hc
    rcases List.mem_append.mp hc with hc | hc
    · exact (memWf_filter hm _).2 c hc
    · simpa using (List.mem_filter.mp hc).2

theorem memBytes_length (d : Byte) (m : Mem) (a n : Nat) : (memBytes d m a n).length = n := by simp [memBytes]

theorem memBytes_getD (d : Byte) (m : Mem) (a n i : Nat) (h : i < n) :
    (memBytes d m a n).getD i 0 = memGet d m (a + i) := by
  simp [memBytes, List.getD, h]

@[simp] theorem fitBytes_length (n : Nat) (bs : List Byte) : (fitBytes n bs).length = n := by simp [fitBytes]

theorem fitBytes_of_length (bs : List Byte) : fitBytes bs.length bs = bs := by
  refine List.ext_getElem (by simp) fun i h1 h2 => ?_
  simp [fitBytes, h2]

theorem fitBytes_getD (n : Nat) (bs : List Byte) (i : Nat) (h : i < n) :
    (fitBytes n bs).getD i 0 = bs.getD i 0 := by
  simp [fitBytes, List.getD, h]

end Sys2Proof.Machine
end

