-- ==== Sys2Proof/Laws/Device.lean ====
section
/-! SUPPORT. What the device's parts can do: the status bits, a program, an erase, the completion of a write, a torn
write, a transaction that is received. -/
namespace Sys2Proof.Machine
open Sys2Proof

/-! ### Status bits (10_state R40) -/

theorem setWip_getLsbD (b : Byte) (k : Nat) : (setWip b).getLsbD k = (b.getLsbD k || decide (k = 0)) := by
  have h : (0x01 : Byte).getLsbD k = decide (k = 0) := by
    by_cases hk : k < 8
    · interval_cases k <;> decide
    · rw [BitVec.getLsbD_of_ge _ _ (by omega)]; simp; omega
  simp only [setWip, BitVec.getLsbD_or, h]

theorem setWel_getLsbD (b : Byte) (k : Nat) : (setWel b).getLsbD k = (b.getLsbD k || decide (k = 1)) := by
  have h : (0x02 : Byte).getLsbD k = decide (k = 1) := by
    by_cases hk : k < 8
    · interval_cases k <;> decide
    · rw [BitVec.getLsbD_of_ge _ _ (by omega)]; simp; omega
  simp only [setWel, BitVec.getLsbD_or, h]

theorem clearWip_getLsbD (b : Byte) (k : Nat) : (clearWip b).getLsbD k = (b.getLsbD k && !decide (k = 0)) := by
  by_cases hk : k < 8
  · have h : (0xFE : Byte).getLsbD k = !decide (k = 0) := by interval_cases k <;> decide
    simp only [clearWip, BitVec.getLsbD_and, h]
  · simp [BitVec.getLsbD_of_ge _ _ (show 8 ≤ k by omega)]

theorem clearWel_getLsbD (b : Byte) (k : Nat) : (clearWel b).getLsbD k = (b.getLsbD k && !decide (k = 1)) := by
  by_cases hk : k < 8
  · have h : (0xFD : Byte).getLsbD k = !decide (k = 1) := by interval_cases k <;> decide
    simp only [clearWel, BitVec.getLsbD_and, h]
  · simp [BitVec.getLsbD_of_ge _ _ (show 8 ≤ k by omega)]

@[simp] theorem wip_setWip (b : Byte) : wip (setWip b) = true := by simp only [wip, setWip_getLsbD]; simp
@[simp] theorem wip_clearWip (b : Byte) : wip (clearWip b) = false := by simp only [wip, clearWip_getLsbD]; simp
@[simp] theorem wip_setWel (b : Byte) : wip (setWel b) = wip b := by simp only [wip, setWel_getLsbD]; simp
@[simp] theorem wip_clearWel (b : Byte) : wip (clearWel b) = wip b := by simp only [wip, clearWel_getLsbD]; simp
@[simp] theorem wel_setWip (b : Byte) : wel (setWip b) = wel b := by simp only [wel, setWip_getLsbD]; simp
@[simp] theorem wel_clearWip (b : Byte) : wel (clearWip b) = wel b := by simp only [wel, clearWip_getLsbD]; simp
@[simp] theorem wel_setWel (b : Byte) : wel (setWel b) = true := by simp only [wel, setWel_getLsbD]; simp
@[simp] theorem wel_clearWel (b : Byte) : wel (clearWel b) = false := by simp only [wel, clearWel_getLsbD]; simp

theorem protBits_eq_of {b c : Byte} (h : ∀ k, 2 ≤ k → b.getLsbD k = c.getLsbD k) : protBits b = protBits c := by
  apply BitVec.eq_of_getLsbD_eq
  intro i hi
  simp only [protBits, BitVec.getLsbD_extractLsb', hi, decide_true, Bool.true_and]
  exact h _ (by omega)

@[simp] theorem protBits_setWip (b : Byte) : protBits (setWip b) = protBits b :=
  protBits_eq_of fun k hk => by simp [setWip_getLsbD, show k ≠ 0 by omega]
@[simp] theorem protBits_clearWip (b : Byte) : protBits (clearWip b) = protBits b :=
  protBits_eq_of fun k hk => by simp [clearWip_getLsbD, show k ≠ 0 by omega]
@[simp] theorem protBits_setWel (b : Byte) : protBits (setWel b) = protBits b :=
  protBits_eq_of fun k hk => by simp [setWel_getLsbD, show k ≠ 1 by omega]
@[simp] theorem protBits_clearWel (b : Byte) : protBits (clearWel b) = protBits b :=
  protBits_eq_of fun k hk => by simp [clearWel_getLsbD, show k ≠ 1 by omega]

theorem clearWip_setWip {b : Byte} (h : wip b = false) : clearWip (setWip b) = b := by
  apply BitVec.eq_of_getLsbD_eq
  intro k _
  rw [clearWip_getLsbD, setWip_getLsbD]
  by_cases hk : k = 0
  · subst hk; simpa [wip] using h.symm
  · simp [hk]

theorem clearWip_of_not_wip {b : Byte} (h : wip b = false) : clearWip b = b := by
  apply BitVec.eq_of_getLsbD_eq
  intro k _
  rw [clearWip_getLsbD]
  by_cases hk : k = 0
  · subst hk; simpa [wip] using h.symm
  · simp [hk]

theorem clearWel_setWel {b : Byte} : clearWel (setWel b) = clearWel b := by
  apply BitVec.eq_of_getLsbD_eq
  intro k _
  rw [clearWel_getLsbD, clearWel_getLsbD, setWel_getLsbD]
  by_cases hk : k = 1 <;> simp [hk]

theorem clearWel_clearWel {b : Byte} : clearWel (clearWel b) = clearWel b := by
  apply BitVec.eq_of_getLsbD_eq
  intro k _
  simp [clearWel_getLsbD]

/-! ### Ranges -/

theorem inRange_iff (r : Range) (x : Nat) : inRange r x = true ↔ r.base ≤ x ∧ x < r.base + r.size := by
  simp [inRange]

theorem inRange_false_iff (r : Range) (x : Nat) : inRange r x = false ↔ x < r.base ∨ r.base + r.size ≤ x := by
  rw [← Bool.not_eq_true, inRange_iff]; omega

theorem any_rangeMinus (q r : Range) (x : Nat) :
    (rangeMinus q r).any (fun p => inRange p x) = (inRange q x && !inRange r x) := by
  rw [Bool.eq_iff_iff]
  simp only [rangeMinus, List.any_append, Bool.or_eq_true, Bool.and_eq_true, Bool.not_eq_true']
  rw [inRange_iff, inRange_false_iff]
  split_ifs <;> simp [inRange_iff] <;> omega

theorem any_rangeMeet (q r : Range) (x : Nat) :
    (rangeMeet q r).any (fun t => inRange t x) = (inRange q x && inRange r x) := by
  rw [Bool.eq_iff_iff, Bool.and_eq_true, inRange_iff, inRange_iff]
  simp only [rangeMeet]
  split
  · rw [List.any_cons, List.any_nil, Bool.or_false, inRange_iff]
    simp only
    omega
  · rw [List.any_nil]
    simp only [Bool.false_eq_true, false_iff]
    omega

/-- After an erase of `r` a byte is in such ranges if it was and either lies outside `r` or is protected. -/
theorem any_eraseRanges (dev : Device) (r : Range) (l : List Range) (x : Nat) :
    (eraseRanges dev r l).any (fun t => inRange t x)
      = (l.any (fun t => inRange t x) && (!inRange r x || protectedAt dev x)) := by
  have hmeet : ∀ (q : Range) (l : List Range),
      (l.flatMap (rangeMeet q)).any (fun t => inRange t x) = (inRange q x && l.any (fun t => inRange t x)) := by
    intro q l
    induction l with
    | nil => simp
    | cons y l ih =>
      rw [List.flatMap_cons, List.any_append, any_rangeMeet, ih, List.any_cons, Bool.and_or_distrib_left]
  simp only [eraseRanges, protectedAt]
  induction l with
  | nil => rfl
  | cons q l ih =>
    rw [List.flatMap_cons, List.any_append, List.any_append, any_rangeMinus, hmeet, ih, List.any_cons]
    cases inRange q x <;> cases inRange r x <;> cases (protRanges dev).any (fun t => inRange t x) <;> simp

theorem protRanges_of_clear {dev : Device} (h : protBits dev.sr = 0) : protRanges dev = [] := by
  simp [protRanges, h]

theorem protectedAt_of_clear {dev : Device} (h : protBits dev.sr = 0) (x : Nat) : protectedAt dev x = false := by
  simp [protectedAt, protRanges_of_clear h]

theorem protectedRange_of_clear {dev : Device} (h : protBits dev.sr = 0) (r : Range) :
    protectedRange dev r = false := by
  simp [protectedRange, rangeMinusAll, protRanges_of_clear h]

/-- What `rangeMinusAll` leaves holds the addresses of the range that no range of the list holds. -/
theorem any_rangeMinusAll (r : Range) (l : List Range) (x : Nat) :
    (rangeMinusAll r l).any (fun p => inRange p x) = (inRange r x && !l.any (fun q => inRange q x)) := by
  have hflat : ∀ (ps : List Range) (q : Range),
      (ps.flatMap (rangeMinus · q)).any (fun p => inRange p x)
        = (ps.any (fun p => inRange p x) && !inRange q x) := by
    intro ps q
    induction ps with
    | nil => rfl
    | cons p ps ih =>
      rw [List.flatMap_cons, List.any_append, any_rangeMinus, ih, List.any_cons, Bool.and_or_distrib_right]
  have hfold : ∀ (l ps : List Range),
      (l.foldl (fun ps q => ps.flatMap (rangeMinus · q)) ps).any (fun p => inRange p x)
        = (ps.any (fun p => inRange p x) && !l.any (fun q => inRange q x)) := by
    intro l
    induction l with
    | nil => simp
    | cons q l ih =>
      intro ps
      rw [List.foldl_cons, ih, hflat, List.any_cons, Bool.not_or, Bool.and_assoc]
  rw [rangeMinusAll, hfold, List.any_cons, List.any_nil, Bool.or_false]

/-- `rangeMinusAll` leaves no empty range, the range itself apart. -/
theorem size_of_mem_rangeMinusAll {r : Range} (hr : 0 < r.size) {l : List Range} :
    ∀ p ∈ rangeMinusAll r l, 0 < p.size := by
  have hfold : ∀ (l ps : List Range), (∀ p ∈ ps, 0 < p.size) →
      ∀ p ∈ l.foldl (fun ps q => ps.flatMap (rangeMinus · q)) ps, 0 < p.size := by
    intro l
    induction l with
    | nil => exact fun _ h => h
    | cons q l ih =>
      intro ps h
      rw [List.foldl_cons]
      refine ih _ fun p hp => ?_
      obtain ⟨t, -, hp⟩ := List.mem_flatMap.mp hp
      simp only [rangeMinus, List.mem_append] at hp
      rcases hp with hp | hp <;> split at hp <;> simp at hp <;> subst hp <;> simp only <;> omega
  exact hfold l [r] (by simpa using hr)

/-- A region is protected exactly when every byte of it is. -/
theorem protectedRange_iff {dev : Device} {r : Range} (hr : 0 < r.size) :
    protectedRange dev r = true ↔ ∀ x, inRange r x = true → protectedAt dev x = true := by
  rw [protectedRange, List.isEmpty_iff]
  constructor
  · intro h x hx
    have := any_rangeMinusAll r (protRanges dev) x
    rw [h, List.any_nil, hx, Bool.true_and] at this
    simpa [protectedAt] using this.symm
  · intro h
    rw [List.eq_nil_iff_forall_not_mem]
    intro p hp
    have hs := size_of_mem_rangeMinusAll hr p hp
    have h1 := any_rangeMinusAll r (protRanges dev) p.base
    have h2 : (rangeMinusAll r (protRanges dev)).any (fun q => inRange q p.base) = true :=
      List.any_eq_true.mpr ⟨p, hp, (inRange_iff p p.base).mpr ⟨Nat.le_refl _, by omega⟩⟩
    rw [h2, eq_comm, Bool.and_eq_true] at h1
    have h3 := h _ h1.1
    rw [protectedAt] at h3
    simp [h3] at h1

theorem protectedProgram_of_clear {dev : Device} (h : protBits dev.sr = 0) (a : Nat) (bs : List Byte) :
    protectedProgram dev a bs = false := by
  simp [protectedProgram, protRanges_of_clear h]

/-! ### Pages -/

theorem pageWrap_lt {a : Nat} (h : a < capacity) (i : Nat) : pageWrap a i < capacity := by
  simp only [pageWrap, pageOf, capacity, pageSize] at *
  omega

theorem pageWrap_inj {a i j : Nat} (hi : i < pageSize) (hj : j < pageSize) (h : pageWrap a i = pageWrap a j) :
    i = j := by
  simp only [pageWrap, pageOf, pageSize] at *
  omega

theorem pageWrap_of_inside {a i : Nat} (h : a % pageSize + i < pageSize) : pageWrap a i = a + i := by
  simp only [pageWrap, pageOf, pageSize] at *
  omega

/-! ### A program and an erase of the array (20_memory R76, R78) -/

theorem memWf_programBytes {prot : Nat → Bool} {m : Mem} (hm : memWf arrayDefault m) (a i : Nat) (bs : List Byte) :
    memWf arrayDefault (programBytes prot m a i bs) := by
  induction bs generalizing m i with
  | nil => exact hm
  | cons b bs ih =>
    simp only [programBytes]
    split
    · exact ih hm _
    · exact ih (memWf_memSet hm _ _) _

/-- A program leaves every byte that it does not reach, or may not reach. -/
theorem memGet_programBytes_out {prot : Nat → Bool} {m : Mem} (hm : memWf arrayDefault m) (a i : Nat) (bs : List Byte)
    (x : Nat) (h : ∀ j, j < bs.length → pageWrap a (i + j) = x → prot x = true) :
    memGet arrayDefault (programBytes prot m a i bs) x = memGet arrayDefault m x := by
  induction bs generalizing m i with
  | nil => rfl
  | cons b bs ih =>
    have htl : ∀ j, j < bs.length → pageWrap a (i + 1 + j) = x → prot x = true := fun j hj he =>
      h (j + 1) (by simpa using hj) (by rw [← he]; congr 1; omega)
    simp only [programBytes]
    by_cases hp : prot (pageWrap a i) = true
    · rw [if_pos hp]; exact ih hm _ htl
    · rw [if_neg hp, ih (memWf_memSet hm _ _) _ htl, memGet_memSet hm, if_neg]
      intro he
      exact hp (he ▸ h 0 (by simp) (by simpa using he.symm))

/-- A program ANDs each byte it reaches. -/
theorem memGet_programBytes_in {prot : Nat → Bool} {m : Mem} (hm : memWf arrayDefault m) (a i : Nat) (bs : List Byte)
    (j : Nat) (hj : j < bs.length) (hlen : i + bs.length ≤ pageSize) (hp : prot (pageWrap a (i + j)) = false) :
    memGet arrayDefault (programBytes prot m a i bs) (pageWrap a (i + j))
      = memGet arrayDefault m (pageWrap a (i + j)) &&& bs.getD j 0 := by
  induction bs generalizing m i j with
  | nil => simp at hj
  | cons b bs ih =>
    simp only [List.length_cons] at hj hlen
    simp only [programBytes]
    cases j with
    | zero =>
      simp only [Nat.add_zero] at hp ⊢
      rw [if_neg (by simp [hp]), memGet_programBytes_out (memWf_memSet hm _ _), memGet_memSet hm, if_pos rfl]
      · rfl
      · intro k hk he
        have := pageWrap_inj (by omega) (by omega) he
        omega
    | succ j =>
      have hij : i + (j + 1) = i + 1 + j := by omega
      rw [hij] at hp ⊢
      have hne : pageWrap a (i + 1 + j) ≠ pageWrap a i := fun he => by
        have := pageWrap_inj (by omega) (by omega) he
        omega
      split
      · rw [ih hm _ _ (by omega) (by omega) hp]; rfl
      · rw [ih (memWf_memSet hm _ _) _ _ (by omega) (by omega) hp, memGet_memSet hm, if_neg hne]; rfl

/-- A program only clears bits. -/
theorem memGet_programBytes_le {prot : Nat → Bool} {m : Mem} (hm : memWf arrayDefault m) (a i : Nat) (bs : List Byte)
    (x k : Nat) (h : (memGet arrayDefault (programBytes prot m a i bs) x).getLsbD k = true) :
    (memGet arrayDefault m x).getLsbD k = true := by
  induction bs generalizing m i with
  | nil => exact h
  | cons b bs ih =>
    simp only [programBytes] at h
    split at h
    · exact ih hm _ h
    · have h2 := ih (memWf_memSet hm _ _) _ h
      rw [memGet_memSet hm] at h2
      split at h2
      · next he => rw [BitVec.getLsbD_and, Bool.and_eq_true] at h2; rw [he]; exact h2.1
      · exact h2

theorem programBytes_lt {prot : Nat → Bool} {m : Mem} {a n : Nat} (hm : ∀ c ∈ m, c.1 < n)
    (ha : ∀ i, pageWrap a i < n) (i : Nat) (bs : List Byte) : ∀ c ∈ programBytes prot m a i bs, c.1 < n := by
  induction bs generalizing m i with
  | nil => exact hm
  | cons b bs ih =>
    simp only [programBytes]
    split
    · exact ih hm _
    · refine ih (fun c hc => ?_) _
      rcases mem_memSet hc with ⟨rfl, _⟩ | hc
      · exact ha i
      · exact hm c hc

theorem memGet_eraseBytes (prot : Nat → Bool) (m : Mem) (r : Range) (x : Nat) :
    memGet arrayDefault (eraseBytes prot m r) x
      = if inRange r x && !prot x then arrayDefault else memGet arrayDefault m x :=
  memGet_memClear m _ x

/-! ### The byte of the array (10_state R47; log entry 10) -/

/-- Two devices whose arrays hold the same bytes. -/
structure SameArray (d e : Device) : Prop where
  array    : e.array = d.array
  content  : e.content = d.content
  unerased : e.unerased = d.unerased

theorem SameArray.refl (d : Device) : SameArray d d := ⟨rfl, rfl, rfl⟩

theorem SameArray.trans {d e f : Device} (h : SameArray d e) (g : SameArray e f) : SameArray d f :=
  ⟨g.array.trans h.array, g.content.trans h.content, g.unerased.trans h.unerased⟩

theorem baseByte_congr {d e : Device} (h : SameArray d e) (x : Nat) : baseByte e x = baseByte d x := by
  rw [baseByte, baseByte, h.unerased, h.content]

theorem arrayByte_congr {d e : Device} (h : SameArray d e) (x : Nat) : arrayByte e x = arrayByte d x := by
  rw [arrayByte, arrayByte, h.array, baseByte_congr h]

/-- A byte ANDed with what has been programmed into it since its erase has only bits the array had. -/
theorem arrayByte_le {d e : Device} {x : Nat} (h : baseByte e x = baseByte d x)
    (hm : ∀ k, (memGet arrayDefault e.array x).getLsbD k = true → (memGet arrayDefault d.array x).getLsbD k = true)
    {k : Nat} (hk : (arrayByte e x).getLsbD k = true) : (arrayByte d x).getLsbD k = true := by
  rw [arrayByte, BitVec.getLsbD_and, Bool.and_eq_true] at hk ⊢
  exact ⟨h ▸ hk.1, hm k hk.2⟩

/-- A completed program leaves every byte that it does not reach, or may not reach. -/
theorem arrayByte_completeProgram_out {dev : Device} {a : Nat} {bs : List Byte} (hm : memWf arrayDefault dev.array)
    (hp : dev.pending = some (.program a bs)) {x : Nat}
    (h : ∀ j, j < bs.length → pageWrap a j = x → protectedAt dev x = true) :
    arrayByte (completeWrite dev) x = arrayByte dev x := by
  have h1 : completeWrite dev
      = { dev with
          sr := clearWip dev.sr, pending := none, array := programBytes (protectedAt dev) dev.array a 0 bs } := by
    simp [completeWrite, hp]
  rw [h1]
  simp only [arrayByte, baseByte]
  rw [memGet_programBytes_out hm _ _ _ _ (by simpa using h)]

/-- A completed program ANDs each byte it reaches, whatever the array held there (20_memory R76). -/
theorem arrayByte_completeProgram_in {dev : Device} {a : Nat} {bs : List Byte} (hm : memWf arrayDefault dev.array)
    (hp : dev.pending = some (.program a bs)) (hl : bs.length ≤ pageSize) {j : Nat} (hj : j < bs.length)
    (h : protectedAt dev (pageWrap a j) = false) :
    arrayByte (completeWrite dev) (pageWrap a j) = arrayByte dev (pageWrap a j) &&& bs.getD j 0 := by
  have h1 : completeWrite dev
      = { dev with
          sr := clearWip dev.sr, pending := none, array := programBytes (protectedAt dev) dev.array a 0 bs } := by
    simp [completeWrite, hp]
  have h2 := memGet_programBytes_in hm a 0 bs j hj (by simpa using hl) (by simpa using h)
  rw [Nat.zero_add] at h2
  rw [h1]
  simp only [arrayByte, baseByte]
  rw [h2, BitVec.and_assoc]

/-- A completed erase sets what it may reach of its region to 0xFF, and leaves the rest (20_memory R78). -/
theorem arrayByte_completeErase {dev : Device} {r : Range} (hp : dev.pending = some (.erase r)) (x : Nat) :
    arrayByte (completeWrite dev) x
      = if inRange r x && !protectedAt dev x then erasedByte else arrayByte dev x := by
  have h1 : completeWrite dev
      = { dev with
          sr := clearWip dev.sr, pending := none, array := eraseBytes (protectedAt dev) dev.array r,
          unerased := eraseRanges dev r dev.unerased, doubt := eraseRanges dev r dev.doubt } := by
    simp [completeWrite, hp]
  rw [h1]
  simp only [arrayByte, baseByte, any_eraseRanges, memGet_eraseBytes]
  cases inRange r x <;> cases protectedAt dev x <;> simp

/-- Completion of a write that is neither leaves the array. -/
theorem arrayByte_completeOther {dev : Device} (h1 : ∀ a bs, dev.pending ≠ some (.program a bs))
    (h2 : ∀ r, dev.pending ≠ some (.erase r)) (x : Nat) : arrayByte (completeWrite dev) x = arrayByte dev x := by
  unfold completeWrite
  split
  · next a bs h => exact absurd h (h1 a bs)
  · next r h => exact absurd h (h2 r)
  all_goals rfl

/-! ### Fields of the device after each operation -/

@[simp] theorem completeWrite_chip (dev : Device) : (completeWrite dev).chip = dev.chip := by
  unfold completeWrite; split <;> rfl
@[simp] theorem completeWrite_mode (dev : Device) : (completeWrite dev).mode = dev.mode := by
  unfold completeWrite; split <;> rfl
@[simp] theorem completeWrite_readParam (dev : Device) : (completeWrite dev).readParam = dev.readParam := by
  unfold completeWrite; split <;> rfl
@[simp] theorem completeWrite_pending (dev : Device) : (completeWrite dev).pending = none := by
  unfold completeWrite; split <;> rfl
@[simp] theorem completeWrite_sr (dev : Device) : (completeWrite dev).sr = clearWip dev.sr := by
  unfold completeWrite; split <;> rfl

theorem settle_false (dev : Device) : settle false dev = dev := by simp [settle]
theorem settle_of_idle {dev : Device} (h : wip dev.sr = false) (b : Bool) : settle b dev = dev := by simp [settle, h]
theorem settle_true {dev : Device} (h : wip dev.sr = true) : settle true dev = completeWrite dev := by
  simp [settle, h]

/-- A device that a transaction reaches is as it was, or its write has completed. -/
theorem settle_cases (b : Bool) (dev : Device) : settle b dev = dev ∨ settle b dev = completeWrite dev := by
  unfold settle; split <;> simp

@[simp] theorem settle_chip (b : Bool) (dev : Device) : (settle b dev).chip = dev.chip := by
  unfold settle; split <;> simp
@[simp] theorem settle_mode (b : Bool) (dev : Device) : (settle b dev).mode = dev.mode := by
  unfold settle; split <;> simp
theorem settle_status (b : Bool) (dev : Device) (k : Nat) (hk : 1 ≤ k) :
    (settle b dev).sr.getLsbD k = dev.sr.getLsbD k := by
  unfold settle; split <;> simp [clearWip_getLsbD, show k ≠ 0 by omega]

@[simp] theorem tearWrite_chip (dev : Device) : (tearWrite dev).chip = dev.chip := by
  unfold tearWrite; split <;> rfl
@[simp] theorem tearWrite_sr (dev : Device) : (tearWrite dev).sr = dev.sr := by
  unfold tearWrite; split <;> rfl
theorem sameArray_tearWrite (dev : Device) : SameArray dev (tearWrite dev) := by
  unfold tearWrite; split <;> exact ⟨rfl, rfl, rfl⟩

@[simp] theorem scramble_chip (p : Scramble) (dev : Device) : (scramble p dev).chip = dev.chip := rfl
@[simp] theorem scramble_sr (p : Scramble) (dev : Device) : (scramble p dev).sr = p.sr := rfl
@[simp] theorem scramble_readParam (p : Scramble) (dev : Device) : (scramble p dev).readParam = p.readParam := rfl
@[simp] theorem scramble_mode (p : Scramble) (dev : Device) : (scramble p dev).mode = p.mode := rfl
@[simp] theorem scramble_doubt (p : Scramble) (dev : Device) : (scramble p dev).doubt = dev.doubt := rfl
@[simp] theorem scramble_pending (p : Scramble) (dev : Device) :
    (scramble p dev).pending = if wip p.sr then some .unknown else none := rfl

/-- A byte of an unconstrained device's array is a free value (20_memory R84). -/
@[simp] theorem arrayByte_scramble (p : Scramble) (dev : Device) {x : Nat} (hx : x < capacity) :
    arrayByte (scramble p dev) x = Config.freeContent p.content x := by
  have h : inRange ⟨0, capacity⟩ x = true := by simp [inRange, hx]
  simp only [arrayByte, baseByte, scramble, List.any_cons, h, Bool.true_or, if_true, memGet]
  rw [show arrayDefault = BitVec.allOnes 8 from rfl, BitVec.and_allOnes]

/-! ### What a byte of the array reads as -/

/-- A byte that reads as a known value is neither being written nor in doubt, and the array holds it. -/
theorem deviceByte_eq_some {dev : Device} {x : Nat} {v : Byte} (h : deviceByte dev x = some v) :
    pendingAt dev.pending x = false ∧ dev.doubt.any (fun r => inRange r x) = false
      ∧ arrayByte dev x = v := by
  unfold deviceByte at h
  split at h
  · cases h
  · next hn =>
    simp only [Bool.not_eq_true, Bool.or_eq_false_iff] at hn
    exact ⟨hn.1, hn.2, Option.some.inj h⟩

theorem deviceByte_of {dev : Device} {x : Nat} (h1 : pendingAt dev.pending x = false)
    (h2 : dev.doubt.any (fun r => inRange r x) = false) :
    deviceByte dev x = some (arrayByte dev x) := by
  simp [deviceByte, h1, h2]

theorem pendingAt_program (a : Nat) (bs : List Byte) (x : Nat) :
    pendingAt (some (.program a bs)) x = true ↔ ∃ i, i < bs.length ∧ pageWrap a i = x := by
  simp [pendingAt]

/-- A torn write puts its bytes in doubt, and no other (60_exceptions R269). -/
theorem any_doubt_tearWrite {dev : Device} {x : Nat}
    (hx : dev.pending = some .unknown → x < capacity) :
    (tearWrite dev).doubt.any (fun r => inRange r x)
      = (pendingAt dev.pending x || dev.doubt.any (fun r => inRange r x)) := by
  unfold tearWrite
  split
  · next a bs h =>
    have hone : ∀ i, inRange ⟨pageWrap a i, 1⟩ x = (pageWrap a i == x) := fun i => by
      rw [Bool.eq_iff_iff, inRange_iff, beq_iff_eq]; simp only; omega
    simp only [h, pendingAt, List.any_append, List.any_map, Function.comp_def, hone]
  · next r h => simp [h, pendingAt]
  · next h => simp [h, pendingAt, show inRange ⟨0, capacity⟩ x = true by simp [inRange, hx h]]
  · next h => simp [h, pendingAt]
  · next h => simp [h, pendingAt]

/-- Tearing the write in progress leaves what the device answers: its bytes are unspecified before and after. -/
theorem deviceByte_tearWrite {dev : Device} {x : Nat}
    (hx : dev.pending = some .unknown → x < capacity) :
    deviceByte (tearWrite dev) x = deviceByte dev x := by
  have hp : pendingAt (tearWrite dev).pending x = false := by unfold tearWrite; split <;> simp_all [pendingAt]
  simp only [deviceByte, hp, any_doubt_tearWrite hx, arrayByte_congr (sameArray_tearWrite dev), Bool.false_or]

/-- A torn byte stays unspecified when WIP is 0 again (60_exceptions R269). -/
theorem deviceByte_completeWrite_tearWrite {dev : Device} {x : Nat}
    (hx : dev.pending = some .unknown → x < capacity)
    (h : pendingAt dev.pending x = true) : deviceByte (completeWrite (tearWrite dev)) x = none := by
  have hd : (completeWrite (tearWrite dev)).doubt = (tearWrite dev).doubt := by
    unfold tearWrite
    split <;> simp_all [completeWrite, pendingAt]
  simp [deviceByte, hd, any_doubt_tearWrite hx, h]

/-! ### The device's invariant -/

theorem deviceInv_completeWrite {dev : Device} (h : DeviceInv dev) : DeviceInv (completeWrite dev) := by
  obtain ⟨hm, hc, hp, hw⟩ := h
  refine ⟨?_, ?_, by simp [pendingInside], by simp⟩
  · unfold completeWrite
    split
    · exact memWf_programBytes hm _ _ _
    · exact memWf_filter hm _
    all_goals exact hm
  · unfold completeWrite
    split
    · next a bs he =>
      rw [he] at hp
      exact programBytes_lt hc (fun i => pageWrap_lt hp.1 i) _ _
    · exact fun c hc' => hc c (List.mem_filter.mp hc').1
    all_goals exact hc

theorem deviceInv_settle {dev : Device} (h : DeviceInv dev) (b : Bool) : DeviceInv (settle b dev) := by
  rcases settle_cases b dev with he | he <;> rw [he]
  · exact h
  · exact deviceInv_completeWrite h

theorem deviceInv_tearWrite {dev : Device} (h : DeviceInv dev) : DeviceInv (tearWrite dev) := by
  obtain ⟨hm, hc, hp, hw⟩ := h
  unfold tearWrite
  split
  · next he => exact ⟨hm, hc, trivial, by simp [hw, he]⟩
  · next he => exact ⟨hm, hc, trivial, by simp [hw, he]⟩
  · next he => exact ⟨hm, hc, trivial, by simp [hw, he]⟩
  all_goals exact ⟨hm, hc, hp, hw⟩

theorem deviceInv_scramble (p : Scramble) (dev : Device) : DeviceInv (scramble p dev) := by
  refine ⟨⟨.nil, nofun⟩, nofun, ?_, ?_⟩ <;> simp only [scramble_sr, scramble_pending] <;>
    cases wip p.sr <;> simp [pendingInside]

theorem deviceInv_powerCycle {dev : Device} (h : DeviceInv dev) (sr p : Byte) :
    DeviceInv (powerCycle sr p dev) := by
  obtain ⟨hm, hc, -, -⟩ := deviceInv_tearWrite h
  refine ⟨hm, hc, ?_, ?_⟩ <;> simp only [powerCycle] <;> cases wip sr <;> simp [pendingInside]

theorem deviceInv_acceptWrite {dev : Device} (h : DeviceInv dev) {p : Pending} (hp : pendingInside (some p)) :
    DeviceInv (acceptWrite p dev) := by
  obtain ⟨hm, hc, -, -⟩ := h
  exact ⟨hm, hc, hp, by simp [acceptWrite]⟩

/-! ### A transaction at the device -/

/-- What every command's effect respects: the chip, the array as it stands, the protect bits. -/
structure TameEffect (eff : DevEffect) : Prop where
  chip   : ∀ d dev, (eff d dev).1.chip = dev.chip
  array  : ∀ d dev, SameArray dev (eff d dev).1
  doubt  : ∀ d dev, (eff d dev).1.doubt = dev.doubt
  status : ∀ d dev k, 2 ≤ k → (eff d dev).1.sr.getLsbD k = dev.sr.getLsbD k
  inv    : ∀ d dev, DeviceInv dev → DeviceInv (eff d dev).1

/-- A received transaction leaves the device as its effect does, as it was, or scrambled. -/
theorem receive_cases (d : TxDraw) (w : Width) (anytime aborted : Bool) (eff : DevEffect) (dev : Device) :
    receive d w anytime aborted eff dev = eff d dev ∨ receive d w anytime aborted eff dev = (dev, d.rx)
      ∨ receive d w anytime aborted eff dev = (scramble d.after dev, d.rx) := by
  unfold receive
  split_ifs <;> simp

theorem receive_understood (d : TxDraw) {w : Width} {anytime aborted : Bool} (eff : DevEffect) {dev : Device}
    (hw : w = modeWidth dev.mode) (hb : anytime = true ∨ wip dev.sr = false) :
    receive d w anytime aborted eff dev = eff d dev := by
  unfold receive
  rw [if_neg (by simp [hw]), if_neg]
  rcases hb with h | h <;> simp [h]

theorem receive_wrong_width (d : TxDraw) {w : Width} (anytime aborted : Bool) (eff : DevEffect) {dev : Device}
    (hw : w ≠ modeWidth dev.mode) : receive d w anytime aborted eff dev = (scramble d.after dev, d.rx) := by
  unfold receive
  rw [if_pos hw]

theorem deviceInv_receive {eff : DevEffect} (he : TameEffect eff) {dev : Device} (h : DeviceInv dev) (d : TxDraw)
    (w : Width) (anytime aborted : Bool) : DeviceInv (receive d w anytime aborted eff dev).1 := by
  rcases receive_cases d w anytime aborted eff dev with hr | hr | hr <;> rw [hr]
  · exact he.inv d dev h
  · exact h
  · exact deviceInv_scramble _ _

theorem receive_chip {eff : DevEffect} (he : TameEffect eff) (d : TxDraw) (w : Width) (anytime aborted : Bool) (dev : Device) :
    (receive d w anytime aborted eff dev).1.chip = dev.chip := by
  rcases receive_cases d w anytime aborted eff dev with hr | hr | hr <;> rw [hr]
  · exact he.chip d dev
  · rfl

theorem heeds_settle {d : TxDraw} {w : Width} {anytime aborted : Bool} {dev : Device}
    (h : Heeds d w anytime aborted dev) (b : Bool) : Heeds d w anytime aborted (settle b dev) := by
  refine ⟨by simpa using h.1, h.2.imp_right (Or.imp_left fun hw => ?_)⟩
  rw [settle_of_idle hw]; exact hw

/-- A transaction that the spec does not leave the device unconstrained after is understood or ignored. -/
theorem receive_heeded {d : TxDraw} {w : Width} {anytime aborted : Bool} (eff : DevEffect) {dev : Device}
    (h : Heeds d w anytime aborted dev) :
    receive d w anytime aborted eff dev = eff d dev ∨ receive d w anytime aborted eff dev = (dev, d.rx) := by
  obtain ⟨hw, h⟩ := h
  unfold receive
  rw [if_neg (by simp [hw])]
  split_ifs with hb ha
  · rcases h with h | h | h | h <;> simp_all
  · exact .inr rfl
  · exact .inl rfl

theorem sameArray_receive {eff : DevEffect} (he : TameEffect eff) {d : TxDraw} {w : Width} {anytime aborted : Bool}
    {dev : Device} (h : Heeds d w anytime aborted dev) : SameArray dev (receive d w anytime aborted eff dev).1 := by
  rcases receive_heeded eff h with hr | hr <;> rw [hr]
  · exact he.array d dev
  · exact .refl dev

/-- The device after a failed transaction is one of four. -/
theorem afterFailure_cases (r : Reach) (dev after : Device) :
    afterFailure r dev after = dev ∨ afterFailure r dev after = after
      ∨ afterFailure r dev after = tearWrite after := by
  cases r
  · exact .inl rfl
  · exact .inr (.inl rfl)
  · simp only [afterFailure]
    split_ifs <;> simp

/-! ### The effects are tame -/

theorem tame_id (f : TxDraw → Device → List Byte) : TameEffect (fun d dev => (dev, f d dev)) :=
  ⟨fun _ _ => rfl, fun _ dev => .refl dev, fun _ _ => rfl, fun _ _ _ _ => rfl, fun _ _ h => h⟩

theorem tame_devRdid : TameEffect devRdid := tame_id fun _ dev => identBytes dev.chip.ident
theorem tame_devRdsr : TameEffect devRdsr := tame_id fun _ dev => [dev.sr]
theorem tame_devFrqio (a n : Nat) : TameEffect (devFrqio a n) := by unfold devFrqio; exact tame_id _

theorem tame_devWren : TameEffect devWren where
  chip _ _ := rfl
  array _ _ := ⟨rfl, rfl, rfl⟩
  doubt _ _ := rfl
  status _ dev k hk := by simp [devWren, setWel_getLsbD, show k ≠ 1 by omega]
  inv _ dev h := ⟨h.1, h.2.1, h.2.2.1, by simpa [devWren] using h.2.2.2⟩

theorem tame_devQpien : TameEffect devQpien := by
  constructor <;> intro d dev <;> unfold devQpien <;> split <;> simp
  · exact .refl dev
  · exact ⟨rfl, rfl, rfl⟩
  · exact fun h => h

theorem tame_devSrp (r : Byte) : TameEffect (devSrp r) where
  chip d dev := by unfold devSrp; split <;> rfl
  array d dev := by unfold devSrp; split <;> exact ⟨rfl, rfl, rfl⟩
  doubt d dev := by unfold devSrp; split <;> rfl
  status d dev k hk := by
    unfold devSrp
    split
    · rfl
    · dsimp only
      split_ifs <;> simp [setWip_getLsbD, clearWel_getLsbD, show k ≠ 0 by omega, show k ≠ 1 by omega]
  inv d dev h := by
    unfold devSrp
    split
    · exact h
    · obtain ⟨hm, hc, hp, hw⟩ := h
      refine ⟨hm, hc, ?_, ?_⟩ <;> dsimp only <;> split_ifs <;> simp_all [pendingInside]

theorem tame_acceptWrite {c : TxDraw → Device → Bool} {p : Pending} (hp : pendingInside (some p)) :
    TameEffect (fun d dev => (if c d dev then acceptWrite p dev else dev, [])) := by
  constructor <;> intro d dev <;> dsimp only <;> split <;> try simp
  · rfl
  · exact ⟨rfl, rfl, rfl⟩
  · exact .refl dev
  · rfl
  · intro k hk
    simp [acceptWrite, setWip_getLsbD, clearWel_getLsbD, show k ≠ 0 by omega, show k ≠ 1 by omega]
  · exact fun h => deviceInv_acceptWrite h hp

theorem tame_devPp {a : Nat} {bs : List Byte} (ha : a < capacity) (hb : bs.length ≤ pageSize) :
    TameEffect (devPp a bs) := by
  unfold devPp
  exact tame_acceptWrite (c := fun _ dev => wel dev.sr && !protectedProgram dev a bs) ⟨ha, hb⟩

theorem tame_devErase {r : Range} (h : r.base + r.size ≤ capacity) : TameEffect (devErase r) := by
  unfold devErase
  exact tame_acceptWrite (c := fun _ dev => wel dev.sr && !protectedRange dev r) h

end Sys2Proof.Machine
end

