-- ==== Sys2Proof/Laws/PerInstr.lean ====
section
/-! SUPPORT. One lemma per instruction about it as syntax: the shape of its words. -/
namespace Sys2Proof.Laws
open Sys2Proof

/-- The instructions that a descriptor carries (30_encoding R110); the others are CMD bytes (R101). -/
def Shape.onBus : Instr → Bool
  | .init | .eraseChip | .eraseSector | .eraseBlock32K | .eraseBlock64K | .read | .program => false
  | .rdid | .wren | .qpien | .srp | .rdsr | .frqio _ _ | .pp _ _ | .ser _ | .be32k _ | .be64k _ | .cer => true

/-- 30_encoding R100, R103, R108, R110: the words of an instruction are a CMD byte with CMD[7:4] = 0, or a descriptor of
the asked width that has the format of its command, from which the instruction is read back, and that sends or receives,
not both (R107). -/
def Shape.Statement (i : Instr) : Prop :=
  ∀ (c : Config) (w : Width),
    (Shape.onBus i = false → ∃ b, encode c w i = .cmd b ∧ cmdReserved b = 0) ∧
    (Shape.onBus i = true → ∃ t n, encode c w i = .desc t ∧ t.w = w ∧ t.cmd ∈ c.commandBytes ∧
      hasFormat (busFormat n) t = true ∧ busInstr n t = i ∧ (t.tx = [] ∨ t.rx = 0))

theorem Shape.init : Shape.Statement .init := fun _ _ => ⟨fun _ => ⟨_, rfl, rfl⟩, nofun⟩
theorem Shape.eraseChip : Shape.Statement .eraseChip := fun _ _ => ⟨fun _ => ⟨_, rfl, rfl⟩, nofun⟩
theorem Shape.eraseSector : Shape.Statement .eraseSector := fun _ _ => ⟨fun _ => ⟨_, rfl, rfl⟩, nofun⟩
theorem Shape.eraseBlock32K : Shape.Statement .eraseBlock32K := fun _ _ => ⟨fun _ => ⟨_, rfl, rfl⟩, nofun⟩
theorem Shape.eraseBlock64K : Shape.Statement .eraseBlock64K := fun _ _ => ⟨fun _ => ⟨_, rfl, rfl⟩, nofun⟩
theorem Shape.read : Shape.Statement .read := fun _ _ => ⟨fun _ => ⟨_, rfl, rfl⟩, nofun⟩
theorem Shape.program : Shape.Statement .program := fun _ _ => ⟨fun _ => ⟨_, rfl, rfl⟩, nofun⟩

theorem Shape.rdid : Shape.Statement .rdid := fun _ _ =>
  ⟨nofun, fun _ => ⟨_, .rdid, rfl, rfl, by simp [Config.commandBytes, bareDesc], rfl, rfl, .inl rfl⟩⟩
theorem Shape.wren : Shape.Statement .wren := fun _ _ =>
  ⟨nofun, fun _ => ⟨_, .wren, rfl, rfl, by simp [Config.commandBytes, bareDesc], rfl, rfl, .inl rfl⟩⟩
theorem Shape.qpien : Shape.Statement .qpien := fun _ _ =>
  ⟨nofun, fun _ => ⟨_, .qpien, rfl, rfl, by simp [Config.commandBytes, bareDesc], rfl, rfl, .inl rfl⟩⟩
theorem Shape.srp : Shape.Statement .srp := fun _ _ =>
  ⟨nofun, fun _ => ⟨_, .srp, rfl, rfl, by simp [Config.commandBytes, bareDesc], rfl, rfl, .inr rfl⟩⟩
theorem Shape.rdsr : Shape.Statement .rdsr := fun _ _ =>
  ⟨nofun, fun _ => ⟨_, .rdsr, rfl, rfl, by simp [Config.commandBytes, bareDesc], rfl, rfl, .inl rfl⟩⟩
theorem Shape.frqio (a : BusAddr) (n : Nat) : Shape.Statement (.frqio a n) := fun _ _ =>
  ⟨nofun, fun _ => ⟨_, .frqio, rfl, rfl, by simp [Config.commandBytes, bareDesc], rfl, rfl, .inl rfl⟩⟩
theorem Shape.pp (a : BusAddr) (tx : List Byte) : Shape.Statement (.pp a tx) := fun _ _ =>
  ⟨nofun, fun _ => ⟨_, .pp, rfl, rfl, by simp [Config.commandBytes, bareDesc], rfl, rfl, .inr rfl⟩⟩
theorem Shape.ser (a : BusAddr) : Shape.Statement (.ser a) := fun _ _ =>
  ⟨nofun, fun _ => ⟨_, .ser, rfl, rfl, by simp [Config.commandBytes, bareDesc], rfl, rfl, .inl rfl⟩⟩
theorem Shape.be32k (a : BusAddr) : Shape.Statement (.be32k a) := fun _ _ =>
  ⟨nofun, fun _ => ⟨_, .be32k, rfl, rfl, by simp [Config.commandBytes, bareDesc], rfl, rfl, .inl rfl⟩⟩
theorem Shape.be64k (a : BusAddr) : Shape.Statement (.be64k a) := fun _ _ =>
  ⟨nofun, fun _ => ⟨_, .be64k, rfl, rfl, by simp [Config.commandBytes, bareDesc], rfl, rfl, .inl rfl⟩⟩
theorem Shape.cer : Shape.Statement .cer := fun _ _ =>
  ⟨nofun, fun _ => ⟨_, .cer, rfl, rfl, by simp [Config.commandBytes, bareDesc], rfl, rfl, .inl rfl⟩⟩

end Sys2Proof.Laws
end

