-- ==== Sys2Proof/Laws/State.lean ====
section
/-! SUPPORT. One lemma per field per update of the state: what each shared operation leaves in each field. -/
namespace Sys2Proof.Machine
open Sys2Proof

/-! ### advance -/

@[simp] theorem advance_cmd (s : State) : (advance s).cmd = s.cmd := rfl
@[simp] theorem advance_addr (s : State) : (advance s).addr = s.addr := rfl
@[simp] theorem advance_len (s : State) : (advance s).len = s.len := rfl
@[simp] theorem advance_index (s : State) : (advance s).index = s.index := rfl
@[simp] theorem advance_buf (s : State) : (advance s).buf = s.buf := rfl
@[simp] theorem advance_lifecycle (s : State) : (advance s).lifecycle = s.lifecycle := rfl
@[simp] theorem advance_ctrlBusy (s : State) : (advance s).ctrlBusy = s.ctrlBusy := rfl
@[simp] theorem advance_result (s : State) : (advance s).result = s.result := rfl
@[simp] theorem advance_busWidth (s : State) : (advance s).busWidth = s.busWidth := rfl
@[simp] theorem advance_seq (s : State) : (advance s).seq = seqAfter s.seq := rfl
@[simp] theorem advance_cursor (s : State) : (advance s).cursor = s.cursor := rfl
@[simp] theorem advance_pollCount (s : State) : (advance s).pollCount = s.pollCount := rfl
@[simp] theorem advance_idleCount (s : State) : (advance s).idleCount = s.idleCount := rfl
@[simp] theorem advance_idBytes (s : State) : (advance s).idBytes = s.idBytes := rfl
@[simp] theorem advance_srByte (s : State) : (advance s).srByte = s.srByte := rfl
@[simp] theorem advance_transportBusy (s : State) : (advance s).transportBusy = s.transportBusy := rfl
@[simp] theorem advance_afterAbort (s : State) : (advance s).afterAbort = s.afterAbort := rfl
@[simp] theorem advance_dev (s : State) : (advance s).dev = s.dev := rfl
@[simp] theorem advance_hostMem (s : State) : (advance s).hostMem = s.hostMem := rfl
@[simp] theorem advance_host (s : State) : (advance s).host = s.host := rfl
@[simp] theorem advance_hostRead (s : State) : (advance s).hostRead = s.hostRead := rfl
@[simp] theorem advance_busyIn (s : State) : (advance s).busyIn = s.busyIn := rfl
@[simp] theorem advance_txIn (s : State) : (advance s).txIn = s.txIn := rfl
@[simp] theorem advance_drawn (s : State) : (advance s).drawn = s.drawn := rfl
@[simp] theorem advance_trace (s : State) : (advance s).trace = s.trace := rfl
@[simp] theorem advance_cfg (s : State) : (advance s).cfg = s.cfg := rfl

/-! ### logEvent -/

@[simp] theorem logEvent_cmd (e : Event) (s : State) : (logEvent e s).cmd = s.cmd := rfl
@[simp] theorem logEvent_addr (e : Event) (s : State) : (logEvent e s).addr = s.addr := rfl
@[simp] theorem logEvent_len (e : Event) (s : State) : (logEvent e s).len = s.len := rfl
@[simp] theorem logEvent_index (e : Event) (s : State) : (logEvent e s).index = s.index := rfl
@[simp] theorem logEvent_buf (e : Event) (s : State) : (logEvent e s).buf = s.buf := rfl
@[simp] theorem logEvent_lifecycle (e : Event) (s : State) : (logEvent e s).lifecycle = s.lifecycle := rfl
@[simp] theorem logEvent_ctrlBusy (e : Event) (s : State) : (logEvent e s).ctrlBusy = s.ctrlBusy := rfl
@[simp] theorem logEvent_result (e : Event) (s : State) : (logEvent e s).result = s.result := rfl
@[simp] theorem logEvent_busWidth (e : Event) (s : State) : (logEvent e s).busWidth = s.busWidth := rfl
@[simp] theorem logEvent_seq (e : Event) (s : State) : (logEvent e s).seq = s.seq := rfl
@[simp] theorem logEvent_cursor (e : Event) (s : State) : (logEvent e s).cursor = s.cursor := rfl
@[simp] theorem logEvent_pollCount (e : Event) (s : State) : (logEvent e s).pollCount = s.pollCount := rfl
@[simp] theorem logEvent_idleCount (e : Event) (s : State) : (logEvent e s).idleCount = s.idleCount := rfl
@[simp] theorem logEvent_idBytes (e : Event) (s : State) : (logEvent e s).idBytes = s.idBytes := rfl
@[simp] theorem logEvent_srByte (e : Event) (s : State) : (logEvent e s).srByte = s.srByte := rfl
@[simp] theorem logEvent_transportBusy (e : Event) (s : State) : (logEvent e s).transportBusy = s.transportBusy := rfl
@[simp] theorem logEvent_afterAbort (e : Event) (s : State) : (logEvent e s).afterAbort = s.afterAbort := rfl
@[simp] theorem logEvent_dev (e : Event) (s : State) : (logEvent e s).dev = s.dev := rfl
@[simp] theorem logEvent_hostMem (e : Event) (s : State) : (logEvent e s).hostMem = s.hostMem := rfl
@[simp] theorem logEvent_host (e : Event) (s : State) : (logEvent e s).host = s.host := rfl
@[simp] theorem logEvent_hostRead (e : Event) (s : State) : (logEvent e s).hostRead = s.hostRead := rfl
@[simp] theorem logEvent_busyIn (e : Event) (s : State) : (logEvent e s).busyIn = s.busyIn := rfl
@[simp] theorem logEvent_txIn (e : Event) (s : State) : (logEvent e s).txIn = s.txIn := rfl
@[simp] theorem logEvent_drawn (e : Event) (s : State) : (logEvent e s).drawn = s.drawn := rfl
@[simp] theorem logEvent_trace (e : Event) (s : State) : (logEvent e s).trace = s.trace ++ [e] := rfl
@[simp] theorem logEvent_cfg (e : Event) (s : State) : (logEvent e s).cfg = s.cfg := rfl

/-! ### gotoPc -/

@[simp] theorem gotoPc_cmd (op : Op) (pc : Nat) (s : State) : (gotoPc op pc s).cmd = s.cmd := rfl
@[simp] theorem gotoPc_addr (op : Op) (pc : Nat) (s : State) : (gotoPc op pc s).addr = s.addr := rfl
@[simp] theorem gotoPc_len (op : Op) (pc : Nat) (s : State) : (gotoPc op pc s).len = s.len := rfl
@[simp] theorem gotoPc_index (op : Op) (pc : Nat) (s : State) : (gotoPc op pc s).index = s.index := rfl
@[simp] theorem gotoPc_buf (op : Op) (pc : Nat) (s : State) : (gotoPc op pc s).buf = s.buf := rfl
@[simp] theorem gotoPc_lifecycle (op : Op) (pc : Nat) (s : State) : (gotoPc op pc s).lifecycle = s.lifecycle := rfl
@[simp] theorem gotoPc_ctrlBusy (op : Op) (pc : Nat) (s : State) : (gotoPc op pc s).ctrlBusy = s.ctrlBusy := rfl
@[simp] theorem gotoPc_result (op : Op) (pc : Nat) (s : State) : (gotoPc op pc s).result = s.result := rfl
@[simp] theorem gotoPc_busWidth (op : Op) (pc : Nat) (s : State) : (gotoPc op pc s).busWidth = s.busWidth := rfl
@[simp] theorem gotoPc_seq (op : Op) (pc : Nat) (s : State) : (gotoPc op pc s).seq = .at op pc := rfl
@[simp] theorem gotoPc_cursor (op : Op) (pc : Nat) (s : State) : (gotoPc op pc s).cursor = s.cursor := rfl
@[simp] theorem gotoPc_pollCount (op : Op) (pc : Nat) (s : State) : (gotoPc op pc s).pollCount = s.pollCount := rfl
@[simp] theorem gotoPc_idleCount (op : Op) (pc : Nat) (s : State) : (gotoPc op pc s).idleCount = s.idleCount := rfl
@[simp] theorem gotoPc_idBytes (op : Op) (pc : Nat) (s : State) : (gotoPc op pc s).idBytes = s.idBytes := rfl
@[simp] theorem gotoPc_srByte (op : Op) (pc : Nat) (s : State) : (gotoPc op pc s).srByte = s.srByte := rfl
@[simp] theorem gotoPc_transportBusy (op : Op) (pc : Nat) (s : State) : (gotoPc op pc s).transportBusy = s.transportBusy := rfl
@[simp] theorem gotoPc_afterAbort (op : Op) (pc : Nat) (s : State) : (gotoPc op pc s).afterAbort = s.afterAbort := rfl
@[simp] theorem gotoPc_dev (op : Op) (pc : Nat) (s : State) : (gotoPc op pc s).dev = s.dev := rfl
@[simp] theorem gotoPc_hostMem (op : Op) (pc : Nat) (s : State) : (gotoPc op pc s).hostMem = s.hostMem := rfl
@[simp] theorem gotoPc_host (op : Op) (pc : Nat) (s : State) : (gotoPc op pc s).host = s.host := rfl
@[simp] theorem gotoPc_hostRead (op : Op) (pc : Nat) (s : State) : (gotoPc op pc s).hostRead = s.hostRead := rfl
@[simp] theorem gotoPc_busyIn (op : Op) (pc : Nat) (s : State) : (gotoPc op pc s).busyIn = s.busyIn := rfl
@[simp] theorem gotoPc_txIn (op : Op) (pc : Nat) (s : State) : (gotoPc op pc s).txIn = s.txIn := rfl
@[simp] theorem gotoPc_drawn (op : Op) (pc : Nat) (s : State) : (gotoPc op pc s).drawn = s.drawn := rfl
@[simp] theorem gotoPc_trace (op : Op) (pc : Nat) (s : State) : (gotoPc op pc s).trace = s.trace := rfl
@[simp] theorem gotoPc_cfg (op : Op) (pc : Nat) (s : State) : (gotoPc op pc s).cfg = s.cfg := rfl

/-! ### startOp -/

@[simp] theorem startOp_cmd (op : Op) (s : State) : (startOp op s).cmd = s.cmd := rfl
@[simp] theorem startOp_addr (op : Op) (s : State) : (startOp op s).addr = s.addr := rfl
@[simp] theorem startOp_len (op : Op) (s : State) : (startOp op s).len = s.len := rfl
@[simp] theorem startOp_index (op : Op) (s : State) : (startOp op s).index = s.index := rfl
@[simp] theorem startOp_buf (op : Op) (s : State) : (startOp op s).buf = s.buf := rfl
@[simp] theorem startOp_lifecycle (op : Op) (s : State) : (startOp op s).lifecycle = s.lifecycle := rfl
@[simp] theorem startOp_ctrlBusy (op : Op) (s : State) : (startOp op s).ctrlBusy = true := rfl
@[simp] theorem startOp_result (op : Op) (s : State) : (startOp op s).result = s.result := rfl
@[simp] theorem startOp_busWidth (op : Op) (s : State) : (startOp op s).busWidth = s.busWidth := rfl
@[simp] theorem startOp_seq (op : Op) (s : State) : (startOp op s).seq = .at op 0 := rfl
@[simp] theorem startOp_cursor (op : Op) (s : State) : (startOp op s).cursor = s.cursor := rfl
@[simp] theorem startOp_pollCount (op : Op) (s : State) : (startOp op s).pollCount = s.pollCount := rfl
@[simp] theorem startOp_idleCount (op : Op) (s : State) : (startOp op s).idleCount = s.idleCount := rfl
@[simp] theorem startOp_idBytes (op : Op) (s : State) : (startOp op s).idBytes = s.idBytes := rfl
@[simp] theorem startOp_srByte (op : Op) (s : State) : (startOp op s).srByte = s.srByte := rfl
@[simp] theorem startOp_transportBusy (op : Op) (s : State) : (startOp op s).transportBusy = s.transportBusy := rfl
@[simp] theorem startOp_afterAbort (op : Op) (s : State) : (startOp op s).afterAbort = s.afterAbort := rfl
@[simp] theorem startOp_dev (op : Op) (s : State) : (startOp op s).dev = s.dev := rfl
@[simp] theorem startOp_hostMem (op : Op) (s : State) : (startOp op s).hostMem = s.hostMem := rfl
@[simp] theorem startOp_host (op : Op) (s : State) : (startOp op s).host = s.host := rfl
@[simp] theorem startOp_hostRead (op : Op) (s : State) : (startOp op s).hostRead = s.hostRead := rfl
@[simp] theorem startOp_busyIn (op : Op) (s : State) : (startOp op s).busyIn = s.busyIn := rfl
@[simp] theorem startOp_txIn (op : Op) (s : State) : (startOp op s).txIn = s.txIn := rfl
@[simp] theorem startOp_drawn (op : Op) (s : State) : (startOp op s).drawn = s.drawn := rfl
@[simp] theorem startOp_trace (op : Op) (s : State) : (startOp op s).trace = s.trace := rfl
@[simp] theorem startOp_cfg (op : Op) (s : State) : (startOp op s).cfg = s.cfg := rfl

/-! ### endOp -/

@[simp] theorem endOp_cmd (o : Option Op) (r : Result) (s : State) : (endOp o r s).cmd = s.cmd := rfl
@[simp] theorem endOp_addr (o : Option Op) (r : Result) (s : State) : (endOp o r s).addr = s.addr := rfl
@[simp] theorem endOp_len (o : Option Op) (r : Result) (s : State) : (endOp o r s).len = s.len := rfl
@[simp] theorem endOp_index (o : Option Op) (r : Result) (s : State) : (endOp o r s).index = s.index := rfl
@[simp] theorem endOp_buf (o : Option Op) (r : Result) (s : State) : (endOp o r s).buf = s.buf := rfl
@[simp] theorem endOp_lifecycle (o : Option Op) (r : Result) (s : State) : (endOp o r s).lifecycle = s.lifecycle := rfl
@[simp] theorem endOp_ctrlBusy (o : Option Op) (r : Result) (s : State) : (endOp o r s).ctrlBusy = false := rfl
@[simp] theorem endOp_result (o : Option Op) (r : Result) (s : State) : (endOp o r s).result = r := rfl
@[simp] theorem endOp_busWidth (o : Option Op) (r : Result) (s : State) : (endOp o r s).busWidth = s.busWidth := rfl
@[simp] theorem endOp_seq (o : Option Op) (r : Result) (s : State) : (endOp o r s).seq = .idle := rfl
@[simp] theorem endOp_cursor (o : Option Op) (r : Result) (s : State) : (endOp o r s).cursor = none := rfl
@[simp] theorem endOp_pollCount (o : Option Op) (r : Result) (s : State) : (endOp o r s).pollCount = none := rfl
@[simp] theorem endOp_idleCount (o : Option Op) (r : Result) (s : State) : (endOp o r s).idleCount = none := rfl
@[simp] theorem endOp_idBytes (o : Option Op) (r : Result) (s : State) : (endOp o r s).idBytes = none := rfl
@[simp] theorem endOp_srByte (o : Option Op) (r : Result) (s : State) : (endOp o r s).srByte = none := rfl
@[simp] theorem endOp_transportBusy (o : Option Op) (r : Result) (s : State) : (endOp o r s).transportBusy = s.transportBusy := rfl
@[simp] theorem endOp_afterAbort (o : Option Op) (r : Result) (s : State) : (endOp o r s).afterAbort = s.afterAbort := rfl
@[simp] theorem endOp_dev (o : Option Op) (r : Result) (s : State) : (endOp o r s).dev = s.dev := rfl
@[simp] theorem endOp_hostMem (o : Option Op) (r : Result) (s : State) : (endOp o r s).hostMem = s.hostMem := rfl
@[simp] theorem endOp_host (o : Option Op) (r : Result) (s : State) : (endOp o r s).host = s.host := rfl
@[simp] theorem endOp_hostRead (o : Option Op) (r : Result) (s : State) : (endOp o r s).hostRead = s.hostRead := rfl
@[simp] theorem endOp_busyIn (o : Option Op) (r : Result) (s : State) : (endOp o r s).busyIn = s.busyIn := rfl
@[simp] theorem endOp_txIn (o : Option Op) (r : Result) (s : State) : (endOp o r s).txIn = s.txIn := rfl
@[simp] theorem endOp_drawn (o : Option Op) (r : Result) (s : State) : (endOp o r s).drawn = s.drawn := rfl
@[simp] theorem endOp_trace (o : Option Op) (r : Result) (s : State) : (endOp o r s).trace = s.trace ++ [.ended r (endBuffer o s)] := rfl
@[simp] theorem endOp_cfg (o : Option Op) (r : Result) (s : State) : (endOp o r s).cfg = s.cfg := rfl

/-! ### rejectCommand -/

/-- A refused command ends at once, and changes nothing else (30_encoding R103). -/
@[simp] theorem rejectCommand_eq (o : Option Op) (c : Byte) (i : Info) (s : State) :
    rejectCommand o c i s = endOp o ⟨c, i⟩ s := rfl

/-! ### nextBusy -/

@[simp] theorem nextBusy_cmd (s : State) : (nextBusy s).2.cmd = s.cmd := by
  unfold nextBusy; split <;> rfl
@[simp] theorem nextBusy_addr (s : State) : (nextBusy s).2.addr = s.addr := by
  unfold nextBusy; split <;> rfl
@[simp] theorem nextBusy_len (s : State) : (nextBusy s).2.len = s.len := by
  unfold nextBusy; split <;> rfl
@[simp] theorem nextBusy_index (s : State) : (nextBusy s).2.index = s.index := by
  unfold nextBusy; split <;> rfl
@[simp] theorem nextBusy_buf (s : State) : (nextBusy s).2.buf = s.buf := by
  unfold nextBusy; split <;> rfl
@[simp] theorem nextBusy_lifecycle (s : State) : (nextBusy s).2.lifecycle = s.lifecycle := by
  unfold nextBusy; split <;> rfl
@[simp] theorem nextBusy_ctrlBusy (s : State) : (nextBusy s).2.ctrlBusy = s.ctrlBusy := by
  unfold nextBusy; split <;> rfl
@[simp] theorem nextBusy_result (s : State) : (nextBusy s).2.result = s.result := by
  unfold nextBusy; split <;> rfl
@[simp] theorem nextBusy_busWidth (s : State) : (nextBusy s).2.busWidth = s.busWidth := by
  unfold nextBusy; split <;> rfl
@[simp] theorem nextBusy_seq (s : State) : (nextBusy s).2.seq = s.seq := by
  unfold nextBusy; split <;> rfl
@[simp] theorem nextBusy_cursor (s : State) : (nextBusy s).2.cursor = s.cursor := by
  unfold nextBusy; split <;> rfl
@[simp] theorem nextBusy_pollCount (s : State) : (nextBusy s).2.pollCount = s.pollCount := by
  unfold nextBusy; split <;> rfl
@[simp] theorem nextBusy_idleCount (s : State) : (nextBusy s).2.idleCount = s.idleCount := by
  unfold nextBusy; split <;> rfl
@[simp] theorem nextBusy_idBytes (s : State) : (nextBusy s).2.idBytes = s.idBytes := by
  unfold nextBusy; split <;> rfl
@[simp] theorem nextBusy_srByte (s : State) : (nextBusy s).2.srByte = s.srByte := by
  unfold nextBusy; split <;> rfl
@[simp] theorem nextBusy_transportBusy (s : State) : (nextBusy s).2.transportBusy = s.transportBusy := by
  unfold nextBusy; split <;> rfl
@[simp] theorem nextBusy_afterAbort (s : State) : (nextBusy s).2.afterAbort = s.afterAbort := by
  unfold nextBusy; split <;> rfl
@[simp] theorem nextBusy_dev (s : State) : (nextBusy s).2.dev = s.dev := by
  unfold nextBusy; split <;> rfl
@[simp] theorem nextBusy_hostMem (s : State) : (nextBusy s).2.hostMem = s.hostMem := by
  unfold nextBusy; split <;> rfl
@[simp] theorem nextBusy_host (s : State) : (nextBusy s).2.host = s.host := by
  unfold nextBusy; split <;> rfl
@[simp] theorem nextBusy_hostRead (s : State) : (nextBusy s).2.hostRead = s.hostRead := by
  unfold nextBusy; split <;> rfl
@[simp] theorem nextBusy_busyIn (s : State) : (nextBusy s).2.busyIn = s.busyIn.tail := by
  unfold nextBusy; split <;> simp_all
@[simp] theorem nextBusy_txIn (s : State) : (nextBusy s).2.txIn = s.txIn := by
  unfold nextBusy; split <;> rfl
@[simp] theorem nextBusy_trace (s : State) : (nextBusy s).2.trace = s.trace := by
  unfold nextBusy; split <;> rfl
@[simp] theorem nextBusy_cfg (s : State) : (nextBusy s).2.cfg = s.cfg := by
  unfold nextBusy; split <;> rfl

/-! ### nextTx -/

@[simp] theorem nextTx_cmd (s : State) : (nextTx s).2.cmd = s.cmd := by
  unfold nextTx; split <;> rfl
@[simp] theorem nextTx_addr (s : State) : (nextTx s).2.addr = s.addr := by
  unfold nextTx; split <;> rfl
@[simp] theorem nextTx_len (s : State) : (nextTx s).2.len = s.len := by
  unfold nextTx; split <;> rfl
@[simp] theorem nextTx_index (s : State) : (nextTx s).2.index = s.index := by
  unfold nextTx; split <;> rfl
@[simp] theorem nextTx_buf (s : State) : (nextTx s).2.buf = s.buf := by
  unfold nextTx; split <;> rfl
@[simp] theorem nextTx_lifecycle (s : State) : (nextTx s).2.lifecycle = s.lifecycle := by
  unfold nextTx; split <;> rfl
@[simp] theorem nextTx_ctrlBusy (s : State) : (nextTx s).2.ctrlBusy = s.ctrlBusy := by
  unfold nextTx; split <;> rfl
@[simp] theorem nextTx_result (s : State) : (nextTx s).2.result = s.result := by
  unfold nextTx; split <;> rfl
@[simp] theorem nextTx_busWidth (s : State) : (nextTx s).2.busWidth = s.busWidth := by
  unfold nextTx; split <;> rfl
@[simp] theorem nextTx_seq (s : State) : (nextTx s).2.seq = s.seq := by
  unfold nextTx; split <;> rfl
@[simp] theorem nextTx_cursor (s : State) : (nextTx s).2.cursor = s.cursor := by
  unfold nextTx; split <;> rfl
@[simp] theorem nextTx_pollCount (s : State) : (nextTx s).2.pollCount = s.pollCount := by
  unfold nextTx; split <;> rfl
@[simp] theorem nextTx_idleCount (s : State) : (nextTx s).2.idleCount = s.idleCount := by
  unfold nextTx; split <;> rfl
@[simp] theorem nextTx_idBytes (s : State) : (nextTx s).2.idBytes = s.idBytes := by
  unfold nextTx; split <;> rfl
@[simp] theorem nextTx_srByte (s : State) : (nextTx s).2.srByte = s.srByte := by
  unfold nextTx; split <;> rfl
@[simp] theorem nextTx_transportBusy (s : State) : (nextTx s).2.transportBusy = s.transportBusy := by
  unfold nextTx; split <;> rfl
@[simp] theorem nextTx_afterAbort (s : State) : (nextTx s).2.afterAbort = s.afterAbort := by
  unfold nextTx; split <;> rfl
@[simp] theorem nextTx_dev (s : State) : (nextTx s).2.dev = s.dev := by
  unfold nextTx; split <;> rfl
@[simp] theorem nextTx_hostMem (s : State) : (nextTx s).2.hostMem = s.hostMem := by
  unfold nextTx; split <;> rfl
@[simp] theorem nextTx_host (s : State) : (nextTx s).2.host = s.host := by
  unfold nextTx; split <;> rfl
@[simp] theorem nextTx_hostRead (s : State) : (nextTx s).2.hostRead = s.hostRead := by
  unfold nextTx; split <;> rfl
@[simp] theorem nextTx_busyIn (s : State) : (nextTx s).2.busyIn = s.busyIn := by
  unfold nextTx; split <;> rfl
@[simp] theorem nextTx_txIn (s : State) : (nextTx s).2.txIn = s.txIn.tail := by
  unfold nextTx; split <;> simp_all
@[simp] theorem nextTx_trace (s : State) : (nextTx s).2.trace = s.trace := by
  unfold nextTx; split <;> rfl
@[simp] theorem nextTx_cfg (s : State) : (nextTx s).2.cfg = s.cfg := by
  unfold nextTx; split <;> rfl

/-! ### spoilBuffer -/

@[simp] theorem spoilBuffer_cmd (s : State) : (spoilBuffer s).cmd = s.cmd := by
  unfold spoilBuffer; split <;> rfl
@[simp] theorem spoilBuffer_addr (s : State) : (spoilBuffer s).addr = s.addr := by
  unfold spoilBuffer; split <;> rfl
@[simp] theorem spoilBuffer_len (s : State) : (spoilBuffer s).len = s.len := by
  unfold spoilBuffer; split <;> rfl
@[simp] theorem spoilBuffer_index (s : State) : (spoilBuffer s).index = s.index := by
  unfold spoilBuffer; split <;> rfl
@[simp] theorem spoilBuffer_buf (s : State) : (spoilBuffer s).buf = s.buf := by
  unfold spoilBuffer; split <;> rfl
@[simp] theorem spoilBuffer_lifecycle (s : State) : (spoilBuffer s).lifecycle = s.lifecycle := by
  unfold spoilBuffer; split <;> rfl
@[simp] theorem spoilBuffer_ctrlBusy (s : State) : (spoilBuffer s).ctrlBusy = s.ctrlBusy := by
  unfold spoilBuffer; split <;> rfl
@[simp] theorem spoilBuffer_result (s : State) : (spoilBuffer s).result = s.result := by
  unfold spoilBuffer; split <;> rfl
@[simp] theorem spoilBuffer_busWidth (s : State) : (spoilBuffer s).busWidth = s.busWidth := by
  unfold spoilBuffer; split <;> rfl
@[simp] theorem spoilBuffer_seq (s : State) : (spoilBuffer s).seq = s.seq := by
  unfold spoilBuffer; split <;> rfl
@[simp] theorem spoilBuffer_cursor (s : State) : (spoilBuffer s).cursor = s.cursor := by
  unfold spoilBuffer; split <;> rfl
@[simp] theorem spoilBuffer_pollCount (s : State) : (spoilBuffer s).pollCount = s.pollCount := by
  unfold spoilBuffer; split <;> rfl
@[simp] theorem spoilBuffer_idleCount (s : State) : (spoilBuffer s).idleCount = s.idleCount := by
  unfold spoilBuffer; split <;> rfl
@[simp] theorem spoilBuffer_idBytes (s : State) : (spoilBuffer s).idBytes = s.idBytes := by
  unfold spoilBuffer; split <;> rfl
@[simp] theorem spoilBuffer_srByte (s : State) : (spoilBuffer s).srByte = s.srByte := by
  unfold spoilBuffer; split <;> rfl
@[simp] theorem spoilBuffer_transportBusy (s : State) : (spoilBuffer s).transportBusy = s.transportBusy := by
  unfold spoilBuffer; split <;> rfl
@[simp] theorem spoilBuffer_afterAbort (s : State) : (spoilBuffer s).afterAbort = s.afterAbort := by
  unfold spoilBuffer; split <;> rfl
@[simp] theorem spoilBuffer_dev (s : State) : (spoilBuffer s).dev = s.dev := by
  unfold spoilBuffer; split <;> rfl
@[simp] theorem spoilBuffer_host (s : State) : (spoilBuffer s).host = s.host := by
  unfold spoilBuffer; split <;> rfl
@[simp] theorem spoilBuffer_hostRead (s : State) : (spoilBuffer s).hostRead = s.hostRead := by
  unfold spoilBuffer; split <;> rfl
@[simp] theorem spoilBuffer_busyIn (s : State) : (spoilBuffer s).busyIn = s.busyIn := by
  unfold spoilBuffer; split <;> rfl
@[simp] theorem spoilBuffer_txIn (s : State) : (spoilBuffer s).txIn = s.txIn := by
  unfold spoilBuffer; split <;> rfl
@[simp] theorem spoilBuffer_trace (s : State) : (spoilBuffer s).trace = s.trace := by
  unfold spoilBuffer; split <;> rfl
@[simp] theorem spoilBuffer_cfg (s : State) : (spoilBuffer s).cfg = s.cfg := by
  unfold spoilBuffer; split <;> rfl

/-! ### raiseError -/

/-- Which errors may leave the device busy: TRANSPORT_ERROR and TIMEOUT of an operation other than READ (70_reset R301). -/
theorem mayLeaveBusy_iff (op : Option Op) (c : Byte) :
    mayLeaveBusy op c = true ↔ (c = codeTransportError ∨ c = codeTimeout) ∧ ∃ o, op = some o ∧ o ≠ .read := by
  rcases op with _ | o
  · simp [mayLeaveBusy]
  · cases o <;> simp [mayLeaveBusy]

@[simp] theorem mayLeaveBusy_identityMismatch (op : Option Op) : mayLeaveBusy op codeIdentityMismatch = false := by
  rcases op with _ | o
  · rfl
  · cases o <;> rfl

@[simp] theorem mayLeaveBusy_outOfRange (op : Option Op) : mayLeaveBusy op codeOutOfRange = false := by
  rcases op with _ | o
  · rfl
  · cases o <;> rfl

@[simp] theorem raiseError_cmd (c : Byte) (i : Info) (s : State) : (raiseError c i s).cmd = s.cmd := by
  simp [raiseError]
@[simp] theorem raiseError_addr (c : Byte) (i : Info) (s : State) : (raiseError c i s).addr = s.addr := by
  simp [raiseError]
@[simp] theorem raiseError_len (c : Byte) (i : Info) (s : State) : (raiseError c i s).len = s.len := by
  simp [raiseError]
@[simp] theorem raiseError_index (c : Byte) (i : Info) (s : State) : (raiseError c i s).index = s.index := by
  simp [raiseError]
@[simp] theorem raiseError_buf (c : Byte) (i : Info) (s : State) : (raiseError c i s).buf = s.buf := by
  simp [raiseError]
@[simp] theorem raiseError_lifecycle (c : Byte) (i : Info) (s : State) : (raiseError c i s).lifecycle = if runningOp s = some .init then .initFailed else s.lifecycle := by
  simp [raiseError]
@[simp] theorem raiseError_ctrlBusy (c : Byte) (i : Info) (s : State) : (raiseError c i s).ctrlBusy = false := by
  simp [raiseError]
@[simp] theorem raiseError_result (c : Byte) (i : Info) (s : State) : (raiseError c i s).result = ⟨c, i⟩ := by
  simp [raiseError]
@[simp] theorem raiseError_busWidth (c : Byte) (i : Info) (s : State) : (raiseError c i s).busWidth = s.busWidth := by
  simp [raiseError]
@[simp] theorem raiseError_seq (c : Byte) (i : Info) (s : State) : (raiseError c i s).seq = .idle := by
  simp [raiseError]
@[simp] theorem raiseError_cursor (c : Byte) (i : Info) (s : State) : (raiseError c i s).cursor = none := by
  simp [raiseError]
@[simp] theorem raiseError_pollCount (c : Byte) (i : Info) (s : State) : (raiseError c i s).pollCount = none := by
  simp [raiseError]
@[simp] theorem raiseError_idleCount (c : Byte) (i : Info) (s : State) : (raiseError c i s).idleCount = none := by
  simp [raiseError]
@[simp] theorem raiseError_idBytes (c : Byte) (i : Info) (s : State) : (raiseError c i s).idBytes = none := by
  simp [raiseError]
@[simp] theorem raiseError_srByte (c : Byte) (i : Info) (s : State) : (raiseError c i s).srByte = none := by
  simp [raiseError]
@[simp] theorem raiseError_transportBusy (c : Byte) (i : Info) (s : State) : (raiseError c i s).transportBusy = s.transportBusy := by
  simp [raiseError]
@[simp] theorem raiseError_afterAbort (c : Byte) (i : Info) (s : State) : (raiseError c i s).afterAbort = (s.afterAbort || mayLeaveBusy (runningOp s) c) := by
  simp [raiseError]
@[simp] theorem raiseError_dev (c : Byte) (i : Info) (s : State) : (raiseError c i s).dev = s.dev := by
  simp [raiseError]
@[simp] theorem raiseError_hostMem (c : Byte) (i : Info) (s : State) : (raiseError c i s).hostMem = (spoilBuffer s).hostMem := by
  simp [raiseError]
@[simp] theorem raiseError_host (c : Byte) (i : Info) (s : State) : (raiseError c i s).host = s.host := by
  simp [raiseError]
@[simp] theorem raiseError_hostRead (c : Byte) (i : Info) (s : State) : (raiseError c i s).hostRead = s.hostRead := by
  simp [raiseError]
@[simp] theorem raiseError_busyIn (c : Byte) (i : Info) (s : State) : (raiseError c i s).busyIn = s.busyIn := by
  simp [raiseError]
@[simp] theorem raiseError_txIn (c : Byte) (i : Info) (s : State) : (raiseError c i s).txIn = s.txIn := by
  simp [raiseError]
@[simp] theorem raiseError_drawn (c : Byte) (i : Info) (s : State) : (raiseError c i s).drawn = (spoilBuffer s).drawn := by
  simp [raiseError]
@[simp] theorem raiseError_trace (c : Byte) (i : Info) (s : State) : (raiseError c i s).trace = s.trace ++ [.ended ⟨c, i⟩ (endBuffer (runningOp s) (spoilBuffer s))] := by
  simp [raiseError, endBuffer]
@[simp] theorem raiseError_cfg (c : Byte) (i : Info) (s : State) : (raiseError c i s).cfg = s.cfg := by
  simp [raiseError]

/-! ### afterTransact -/

@[simp] theorem afterTransact_cmd (t : Desc) (any : Bool) (eff : DevEffect) (s : State) : (afterTransact t any eff s).cmd = s.cmd := by
  simp [afterTransact]
@[simp] theorem afterTransact_addr (t : Desc) (any : Bool) (eff : DevEffect) (s : State) : (afterTransact t any eff s).addr = s.addr := by
  simp [afterTransact]
@[simp] theorem afterTransact_len (t : Desc) (any : Bool) (eff : DevEffect) (s : State) : (afterTransact t any eff s).len = s.len := by
  simp [afterTransact]
@[simp] theorem afterTransact_index (t : Desc) (any : Bool) (eff : DevEffect) (s : State) : (afterTransact t any eff s).index = s.index := by
  simp [afterTransact]
@[simp] theorem afterTransact_buf (t : Desc) (any : Bool) (eff : DevEffect) (s : State) : (afterTransact t any eff s).buf = s.buf := by
  simp [afterTransact]
@[simp] theorem afterTransact_lifecycle (t : Desc) (any : Bool) (eff : DevEffect) (s : State) : (afterTransact t any eff s).lifecycle = s.lifecycle := by
  simp [afterTransact]
@[simp] theorem afterTransact_ctrlBusy (t : Desc) (any : Bool) (eff : DevEffect) (s : State) : (afterTransact t any eff s).ctrlBusy = s.ctrlBusy := by
  simp [afterTransact]
@[simp] theorem afterTransact_result (t : Desc) (any : Bool) (eff : DevEffect) (s : State) : (afterTransact t any eff s).result = s.result := by
  simp [afterTransact]
@[simp] theorem afterTransact_busWidth (t : Desc) (any : Bool) (eff : DevEffect) (s : State) : (afterTransact t any eff s).busWidth = s.busWidth := by
  simp [afterTransact]
@[simp] theorem afterTransact_seq (t : Desc) (any : Bool) (eff : DevEffect) (s : State) : (afterTransact t any eff s).seq = s.seq := by
  simp [afterTransact]
@[simp] theorem afterTransact_cursor (t : Desc) (any : Bool) (eff : DevEffect) (s : State) : (afterTransact t any eff s).cursor = s.cursor := by
  simp [afterTransact]
@[simp] theorem afterTransact_pollCount (t : Desc) (any : Bool) (eff : DevEffect) (s : State) : (afterTransact t any eff s).pollCount = s.pollCount := by
  simp [afterTransact]
@[simp] theorem afterTransact_idleCount (t : Desc) (any : Bool) (eff : DevEffect) (s : State) : (afterTransact t any eff s).idleCount = s.idleCount := by
  simp [afterTransact]
@[simp] theorem afterTransact_idBytes (t : Desc) (any : Bool) (eff : DevEffect) (s : State) : (afterTransact t any eff s).idBytes = s.idBytes := by
  simp [afterTransact]
@[simp] theorem afterTransact_srByte (t : Desc) (any : Bool) (eff : DevEffect) (s : State) : (afterTransact t any eff s).srByte = s.srByte := by
  simp [afterTransact]
@[simp] theorem afterTransact_transportBusy (t : Desc) (any : Bool) (eff : DevEffect) (s : State) : (afterTransact t any eff s).transportBusy = s.transportBusy := by
  simp [afterTransact]
@[simp] theorem afterTransact_afterAbort (t : Desc) (any : Bool) (eff : DevEffect) (s : State) : (afterTransact t any eff s).afterAbort = s.afterAbort := by
  simp [afterTransact]
@[simp] theorem afterTransact_dev (t : Desc) (any : Bool) (eff : DevEffect) (s : State) : (afterTransact t any eff s).dev = (transactDevice (nextTx s).1 t any s.afterAbort eff s.dev).1 := by
  simp [afterTransact]
@[simp] theorem afterTransact_hostMem (t : Desc) (any : Bool) (eff : DevEffect) (s : State) : (afterTransact t any eff s).hostMem = s.hostMem := by
  simp [afterTransact]
@[simp] theorem afterTransact_host (t : Desc) (any : Bool) (eff : DevEffect) (s : State) : (afterTransact t any eff s).host = s.host := by
  simp [afterTransact]
@[simp] theorem afterTransact_hostRead (t : Desc) (any : Bool) (eff : DevEffect) (s : State) : (afterTransact t any eff s).hostRead = s.hostRead := by
  simp [afterTransact]
@[simp] theorem afterTransact_busyIn (t : Desc) (any : Bool) (eff : DevEffect) (s : State) : (afterTransact t any eff s).busyIn = s.busyIn := by
  simp [afterTransact]
@[simp] theorem afterTransact_txIn (t : Desc) (any : Bool) (eff : DevEffect) (s : State) : (afterTransact t any eff s).txIn = s.txIn.tail := by
  simp [afterTransact]
@[simp] theorem afterTransact_drawn (t : Desc) (any : Bool) (eff : DevEffect) (s : State) : (afterTransact t any eff s).drawn = (nextTx s).2.drawn := by
  simp [afterTransact]
@[simp] theorem afterTransact_trace (t : Desc) (any : Bool) (eff : DevEffect) (s : State) : (afterTransact t any eff s).trace = s.trace ++ [.tx t (transactDevice (nextTx s).1 t any s.afterAbort eff s.dev).2] := by
  simp [afterTransact]
@[simp] theorem afterTransact_cfg (t : Desc) (any : Bool) (eff : DevEffect) (s : State) : (afterTransact t any eff s).cfg = s.cfg := by
  simp [afterTransact]

/-! ### recvIdent -/

@[simp] theorem recvIdent_cmd (rx : List Byte) (s : State) : (recvIdent rx s).cmd = s.cmd := rfl
@[simp] theorem recvIdent_addr (rx : List Byte) (s : State) : (recvIdent rx s).addr = s.addr := rfl
@[simp] theorem recvIdent_len (rx : List Byte) (s : State) : (recvIdent rx s).len = s.len := rfl
@[simp] theorem recvIdent_index (rx : List Byte) (s : State) : (recvIdent rx s).index = s.index := rfl
@[simp] theorem recvIdent_buf (rx : List Byte) (s : State) : (recvIdent rx s).buf = s.buf := rfl
@[simp] theorem recvIdent_lifecycle (rx : List Byte) (s : State) : (recvIdent rx s).lifecycle = s.lifecycle := rfl
@[simp] theorem recvIdent_ctrlBusy (rx : List Byte) (s : State) : (recvIdent rx s).ctrlBusy = s.ctrlBusy := rfl
@[simp] theorem recvIdent_result (rx : List Byte) (s : State) : (recvIdent rx s).result = s.result := rfl
@[simp] theorem recvIdent_busWidth (rx : List Byte) (s : State) : (recvIdent rx s).busWidth = s.busWidth := rfl
@[simp] theorem recvIdent_seq (rx : List Byte) (s : State) : (recvIdent rx s).seq = s.seq := rfl
@[simp] theorem recvIdent_cursor (rx : List Byte) (s : State) : (recvIdent rx s).cursor = s.cursor := rfl
@[simp] theorem recvIdent_pollCount (rx : List Byte) (s : State) : (recvIdent rx s).pollCount = s.pollCount := rfl
@[simp] theorem recvIdent_idleCount (rx : List Byte) (s : State) : (recvIdent rx s).idleCount = s.idleCount := rfl
@[simp] theorem recvIdent_idBytes (rx : List Byte) (s : State) : (recvIdent rx s).idBytes = some (identOf rx) := rfl
@[simp] theorem recvIdent_srByte (rx : List Byte) (s : State) : (recvIdent rx s).srByte = s.srByte := rfl
@[simp] theorem recvIdent_transportBusy (rx : List Byte) (s : State) : (recvIdent rx s).transportBusy = s.transportBusy := rfl
@[simp] theorem recvIdent_afterAbort (rx : List Byte) (s : State) : (recvIdent rx s).afterAbort = s.afterAbort := rfl
@[simp] theorem recvIdent_dev (rx : List Byte) (s : State) : (recvIdent rx s).dev = s.dev := rfl
@[simp] theorem recvIdent_hostMem (rx : List Byte) (s : State) : (recvIdent rx s).hostMem = s.hostMem := rfl
@[simp] theorem recvIdent_host (rx : List Byte) (s : State) : (recvIdent rx s).host = s.host := rfl
@[simp] theorem recvIdent_hostRead (rx : List Byte) (s : State) : (recvIdent rx s).hostRead = s.hostRead := rfl
@[simp] theorem recvIdent_busyIn (rx : List Byte) (s : State) : (recvIdent rx s).busyIn = s.busyIn := rfl
@[simp] theorem recvIdent_txIn (rx : List Byte) (s : State) : (recvIdent rx s).txIn = s.txIn := rfl
@[simp] theorem recvIdent_drawn (rx : List Byte) (s : State) : (recvIdent rx s).drawn = s.drawn := rfl
@[simp] theorem recvIdent_trace (rx : List Byte) (s : State) : (recvIdent rx s).trace = s.trace := rfl
@[simp] theorem recvIdent_cfg (rx : List Byte) (s : State) : (recvIdent rx s).cfg = s.cfg := rfl

/-! ### recvStatus -/

@[simp] theorem recvStatus_cmd (rx : List Byte) (s : State) : (recvStatus rx s).cmd = s.cmd := rfl
@[simp] theorem recvStatus_addr (rx : List Byte) (s : State) : (recvStatus rx s).addr = s.addr := rfl
@[simp] theorem recvStatus_len (rx : List Byte) (s : State) : (recvStatus rx s).len = s.len := rfl
@[simp] theorem recvStatus_index (rx : List Byte) (s : State) : (recvStatus rx s).index = s.index := rfl
@[simp] theorem recvStatus_buf (rx : List Byte) (s : State) : (recvStatus rx s).buf = s.buf := rfl
@[simp] theorem recvStatus_lifecycle (rx : List Byte) (s : State) : (recvStatus rx s).lifecycle = s.lifecycle := rfl
@[simp] theorem recvStatus_ctrlBusy (rx : List Byte) (s : State) : (recvStatus rx s).ctrlBusy = s.ctrlBusy := rfl
@[simp] theorem recvStatus_result (rx : List Byte) (s : State) : (recvStatus rx s).result = s.result := rfl
@[simp] theorem recvStatus_busWidth (rx : List Byte) (s : State) : (recvStatus rx s).busWidth = s.busWidth := rfl
@[simp] theorem recvStatus_seq (rx : List Byte) (s : State) : (recvStatus rx s).seq = s.seq := rfl
@[simp] theorem recvStatus_cursor (rx : List Byte) (s : State) : (recvStatus rx s).cursor = s.cursor := rfl
@[simp] theorem recvStatus_pollCount (rx : List Byte) (s : State) : (recvStatus rx s).pollCount = s.pollCount := rfl
@[simp] theorem recvStatus_idleCount (rx : List Byte) (s : State) : (recvStatus rx s).idleCount = s.idleCount := rfl
@[simp] theorem recvStatus_idBytes (rx : List Byte) (s : State) : (recvStatus rx s).idBytes = s.idBytes := rfl
@[simp] theorem recvStatus_srByte (rx : List Byte) (s : State) : (recvStatus rx s).srByte = some (rx.getD 0 0) := rfl
@[simp] theorem recvStatus_transportBusy (rx : List Byte) (s : State) : (recvStatus rx s).transportBusy = s.transportBusy := rfl
@[simp] theorem recvStatus_afterAbort (rx : List Byte) (s : State) : (recvStatus rx s).afterAbort = (s.afterAbort && wip (rx.getD 0 0)) := rfl
@[simp] theorem recvStatus_dev (rx : List Byte) (s : State) : (recvStatus rx s).dev = s.dev := rfl
@[simp] theorem recvStatus_hostMem (rx : List Byte) (s : State) : (recvStatus rx s).hostMem = s.hostMem := rfl
@[simp] theorem recvStatus_host (rx : List Byte) (s : State) : (recvStatus rx s).host = s.host := rfl
@[simp] theorem recvStatus_hostRead (rx : List Byte) (s : State) : (recvStatus rx s).hostRead = s.hostRead := rfl
@[simp] theorem recvStatus_busyIn (rx : List Byte) (s : State) : (recvStatus rx s).busyIn = s.busyIn := rfl
@[simp] theorem recvStatus_txIn (rx : List Byte) (s : State) : (recvStatus rx s).txIn = s.txIn := rfl
@[simp] theorem recvStatus_drawn (rx : List Byte) (s : State) : (recvStatus rx s).drawn = s.drawn := rfl
@[simp] theorem recvStatus_trace (rx : List Byte) (s : State) : (recvStatus rx s).trace = s.trace := rfl
@[simp] theorem recvStatus_cfg (rx : List Byte) (s : State) : (recvStatus rx s).cfg = s.cfg := rfl

/-! ### recvNothing -/

@[simp] theorem recvNothing_cmd (rx : List Byte) (s : State) : (recvNothing rx s).cmd = s.cmd := rfl
@[simp] theorem recvNothing_addr (rx : List Byte) (s : State) : (recvNothing rx s).addr = s.addr := rfl
@[simp] theorem recvNothing_len (rx : List Byte) (s : State) : (recvNothing rx s).len = s.len := rfl
@[simp] theorem recvNothing_index (rx : List Byte) (s : State) : (recvNothing rx s).index = s.index := rfl
@[simp] theorem recvNothing_buf (rx : List Byte) (s : State) : (recvNothing rx s).buf = s.buf := rfl
@[simp] theorem recvNothing_lifecycle (rx : List Byte) (s : State) : (recvNothing rx s).lifecycle = s.lifecycle := rfl
@[simp] theorem recvNothing_ctrlBusy (rx : List Byte) (s : State) : (recvNothing rx s).ctrlBusy = s.ctrlBusy := rfl
@[simp] theorem recvNothing_result (rx : List Byte) (s : State) : (recvNothing rx s).result = s.result := rfl
@[simp] theorem recvNothing_busWidth (rx : List Byte) (s : State) : (recvNothing rx s).busWidth = s.busWidth := rfl
@[simp] theorem recvNothing_seq (rx : List Byte) (s : State) : (recvNothing rx s).seq = s.seq := rfl
@[simp] theorem recvNothing_cursor (rx : List Byte) (s : State) : (recvNothing rx s).cursor = s.cursor := rfl
@[simp] theorem recvNothing_pollCount (rx : List Byte) (s : State) : (recvNothing rx s).pollCount = s.pollCount := rfl
@[simp] theorem recvNothing_idleCount (rx : List Byte) (s : State) : (recvNothing rx s).idleCount = s.idleCount := rfl
@[simp] theorem recvNothing_idBytes (rx : List Byte) (s : State) : (recvNothing rx s).idBytes = s.idBytes := rfl
@[simp] theorem recvNothing_srByte (rx : List Byte) (s : State) : (recvNothing rx s).srByte = s.srByte := rfl
@[simp] theorem recvNothing_transportBusy (rx : List Byte) (s : State) : (recvNothing rx s).transportBusy = s.transportBusy := rfl
@[simp] theorem recvNothing_afterAbort (rx : List Byte) (s : State) : (recvNothing rx s).afterAbort = s.afterAbort := rfl
@[simp] theorem recvNothing_dev (rx : List Byte) (s : State) : (recvNothing rx s).dev = s.dev := rfl
@[simp] theorem recvNothing_hostMem (rx : List Byte) (s : State) : (recvNothing rx s).hostMem = s.hostMem := rfl
@[simp] theorem recvNothing_host (rx : List Byte) (s : State) : (recvNothing rx s).host = s.host := rfl
@[simp] theorem recvNothing_hostRead (rx : List Byte) (s : State) : (recvNothing rx s).hostRead = s.hostRead := rfl
@[simp] theorem recvNothing_busyIn (rx : List Byte) (s : State) : (recvNothing rx s).busyIn = s.busyIn := rfl
@[simp] theorem recvNothing_txIn (rx : List Byte) (s : State) : (recvNothing rx s).txIn = s.txIn := rfl
@[simp] theorem recvNothing_drawn (rx : List Byte) (s : State) : (recvNothing rx s).drawn = s.drawn := rfl
@[simp] theorem recvNothing_trace (rx : List Byte) (s : State) : (recvNothing rx s).trace = s.trace := rfl
@[simp] theorem recvNothing_cfg (rx : List Byte) (s : State) : (recvNothing rx s).cfg = s.cfg := rfl

/-! ### recvWindow -/

@[simp] theorem recvWindow_cmd (rx : List Byte) (s : State) : (recvWindow rx s).cmd = s.cmd := by
  unfold recvWindow; split <;> rfl
@[simp] theorem recvWindow_addr (rx : List Byte) (s : State) : (recvWindow rx s).addr = s.addr := by
  unfold recvWindow; split <;> rfl
@[simp] theorem recvWindow_len (rx : List Byte) (s : State) : (recvWindow rx s).len = s.len := by
  unfold recvWindow; split <;> rfl
@[simp] theorem recvWindow_index (rx : List Byte) (s : State) : (recvWindow rx s).index = s.index := by
  unfold recvWindow; split <;> rfl
@[simp] theorem recvWindow_buf (rx : List Byte) (s : State) : (recvWindow rx s).buf = s.buf := by
  unfold recvWindow; split <;> rfl
@[simp] theorem recvWindow_lifecycle (rx : List Byte) (s : State) : (recvWindow rx s).lifecycle = s.lifecycle := by
  unfold recvWindow; split <;> rfl
@[simp] theorem recvWindow_ctrlBusy (rx : List Byte) (s : State) : (recvWindow rx s).ctrlBusy = s.ctrlBusy := by
  unfold recvWindow; split <;> rfl
@[simp] theorem recvWindow_result (rx : List Byte) (s : State) : (recvWindow rx s).result = s.result := by
  unfold recvWindow; split <;> rfl
@[simp] theorem recvWindow_busWidth (rx : List Byte) (s : State) : (recvWindow rx s).busWidth = s.busWidth := by
  unfold recvWindow; split <;> rfl
@[simp] theorem recvWindow_seq (rx : List Byte) (s : State) : (recvWindow rx s).seq = s.seq := by
  unfold recvWindow; split <;> rfl
@[simp] theorem recvWindow_cursor (rx : List Byte) (s : State) : (recvWindow rx s).cursor = s.cursor := by
  unfold recvWindow; split <;> rfl
@[simp] theorem recvWindow_pollCount (rx : List Byte) (s : State) : (recvWindow rx s).pollCount = s.pollCount := by
  unfold recvWindow; split <;> rfl
@[simp] theorem recvWindow_idleCount (rx : List Byte) (s : State) : (recvWindow rx s).idleCount = s.idleCount := by
  unfold recvWindow; split <;> rfl
@[simp] theorem recvWindow_idBytes (rx : List Byte) (s : State) : (recvWindow rx s).idBytes = s.idBytes := by
  unfold recvWindow; split <;> rfl
@[simp] theorem recvWindow_srByte (rx : List Byte) (s : State) : (recvWindow rx s).srByte = s.srByte := by
  unfold recvWindow; split <;> rfl
@[simp] theorem recvWindow_transportBusy (rx : List Byte) (s : State) : (recvWindow rx s).transportBusy = s.transportBusy := by
  unfold recvWindow; split <;> rfl
@[simp] theorem recvWindow_afterAbort (rx : List Byte) (s : State) : (recvWindow rx s).afterAbort = s.afterAbort := by
  unfold recvWindow; split <;> rfl
@[simp] theorem recvWindow_dev (rx : List Byte) (s : State) : (recvWindow rx s).dev = s.dev := by
  unfold recvWindow; split <;> rfl
@[simp] theorem recvWindow_host (rx : List Byte) (s : State) : (recvWindow rx s).host = s.host := by
  unfold recvWindow; split <;> rfl
@[simp] theorem recvWindow_hostRead (rx : List Byte) (s : State) : (recvWindow rx s).hostRead = s.hostRead := by
  unfold recvWindow; split <;> rfl
@[simp] theorem recvWindow_busyIn (rx : List Byte) (s : State) : (recvWindow rx s).busyIn = s.busyIn := by
  unfold recvWindow; split <;> rfl
@[simp] theorem recvWindow_txIn (rx : List Byte) (s : State) : (recvWindow rx s).txIn = s.txIn := by
  unfold recvWindow; split <;> rfl
@[simp] theorem recvWindow_drawn (rx : List Byte) (s : State) : (recvWindow rx s).drawn = s.drawn := by
  unfold recvWindow; split <;> rfl
@[simp] theorem recvWindow_trace (rx : List Byte) (s : State) : (recvWindow rx s).trace = s.trace := by
  unfold recvWindow; split <;> rfl
@[simp] theorem recvWindow_cfg (rx : List Byte) (s : State) : (recvWindow rx s).cfg = s.cfg := by
  unfold recvWindow; split <;> rfl

/-! ### queryBusy -/

@[simp] theorem queryBusy_cmd (s : State) : (queryBusy s).cmd = s.cmd := by
  simp [queryBusy]
@[simp] theorem queryBusy_addr (s : State) : (queryBusy s).addr = s.addr := by
  simp [queryBusy]
@[simp] theorem queryBusy_len (s : State) : (queryBusy s).len = s.len := by
  simp [queryBusy]
@[simp] theorem queryBusy_index (s : State) : (queryBusy s).index = s.index := by
  simp [queryBusy]
@[simp] theorem queryBusy_buf (s : State) : (queryBusy s).buf = s.buf := by
  simp [queryBusy]
@[simp] theorem queryBusy_lifecycle (s : State) : (queryBusy s).lifecycle = s.lifecycle := by
  simp [queryBusy]
@[simp] theorem queryBusy_ctrlBusy (s : State) : (queryBusy s).ctrlBusy = s.ctrlBusy := by
  simp [queryBusy]
@[simp] theorem queryBusy_result (s : State) : (queryBusy s).result = s.result := by
  simp [queryBusy]
@[simp] theorem queryBusy_busWidth (s : State) : (queryBusy s).busWidth = s.busWidth := by
  simp [queryBusy]
@[simp] theorem queryBusy_seq (s : State) : (queryBusy s).seq = s.seq := by
  simp [queryBusy]
@[simp] theorem queryBusy_cursor (s : State) : (queryBusy s).cursor = s.cursor := by
  simp [queryBusy]
@[simp] theorem queryBusy_pollCount (s : State) : (queryBusy s).pollCount = s.pollCount := by
  simp [queryBusy]
@[simp] theorem queryBusy_idleCount (s : State) : (queryBusy s).idleCount = s.idleCount := by
  simp [queryBusy]
@[simp] theorem queryBusy_idBytes (s : State) : (queryBusy s).idBytes = s.idBytes := by
  simp [queryBusy]
@[simp] theorem queryBusy_srByte (s : State) : (queryBusy s).srByte = s.srByte := by
  simp [queryBusy]
@[simp] theorem queryBusy_transportBusy (s : State) : (queryBusy s).transportBusy = (nextBusy s).1 := by
  simp [queryBusy]
@[simp] theorem queryBusy_afterAbort (s : State) : (queryBusy s).afterAbort = s.afterAbort := by
  simp [queryBusy]
@[simp] theorem queryBusy_dev (s : State) : (queryBusy s).dev = s.dev := by
  simp [queryBusy]
@[simp] theorem queryBusy_hostMem (s : State) : (queryBusy s).hostMem = s.hostMem := by
  simp [queryBusy]
@[simp] theorem queryBusy_host (s : State) : (queryBusy s).host = s.host := by
  simp [queryBusy]
@[simp] theorem queryBusy_hostRead (s : State) : (queryBusy s).hostRead = s.hostRead := by
  simp [queryBusy]
@[simp] theorem queryBusy_busyIn (s : State) : (queryBusy s).busyIn = s.busyIn.tail := by
  simp [queryBusy]
@[simp] theorem queryBusy_txIn (s : State) : (queryBusy s).txIn = s.txIn := by
  simp [queryBusy]
@[simp] theorem queryBusy_drawn (s : State) : (queryBusy s).drawn = (nextBusy s).2.drawn := by
  simp [queryBusy]
@[simp] theorem queryBusy_trace (s : State) : (queryBusy s).trace = s.trace ++ [.busy (nextBusy s).1] := by
  simp [queryBusy]
@[simp] theorem queryBusy_cfg (s : State) : (queryBusy s).cfg = s.cfg := by
  simp [queryBusy]

/-! ### stepSetWidth -/

@[simp] theorem stepSetWidth_cmd (w : Width) (s : State) : (stepSetWidth w s).cmd = s.cmd := rfl
@[simp] theorem stepSetWidth_addr (w : Width) (s : State) : (stepSetWidth w s).addr = s.addr := rfl
@[simp] theorem stepSetWidth_len (w : Width) (s : State) : (stepSetWidth w s).len = s.len := rfl
@[simp] theorem stepSetWidth_index (w : Width) (s : State) : (stepSetWidth w s).index = s.index := rfl
@[simp] theorem stepSetWidth_buf (w : Width) (s : State) : (stepSetWidth w s).buf = s.buf := rfl
@[simp] theorem stepSetWidth_lifecycle (w : Width) (s : State) : (stepSetWidth w s).lifecycle = s.lifecycle := rfl
@[simp] theorem stepSetWidth_ctrlBusy (w : Width) (s : State) : (stepSetWidth w s).ctrlBusy = s.ctrlBusy := rfl
@[simp] theorem stepSetWidth_result (w : Width) (s : State) : (stepSetWidth w s).result = s.result := rfl
@[simp] theorem stepSetWidth_busWidth (w : Width) (s : State) : (stepSetWidth w s).busWidth = w := rfl
@[simp] theorem stepSetWidth_seq (w : Width) (s : State) : (stepSetWidth w s).seq = seqAfter s.seq := rfl
@[simp] theorem stepSetWidth_cursor (w : Width) (s : State) : (stepSetWidth w s).cursor = s.cursor := rfl
@[simp] theorem stepSetWidth_pollCount (w : Width) (s : State) : (stepSetWidth w s).pollCount = s.pollCount := rfl
@[simp] theorem stepSetWidth_idleCount (w : Width) (s : State) : (stepSetWidth w s).idleCount = s.idleCount := rfl
@[simp] theorem stepSetWidth_idBytes (w : Width) (s : State) : (stepSetWidth w s).idBytes = s.idBytes := rfl
@[simp] theorem stepSetWidth_srByte (w : Width) (s : State) : (stepSetWidth w s).srByte = s.srByte := rfl
@[simp] theorem stepSetWidth_transportBusy (w : Width) (s : State) : (stepSetWidth w s).transportBusy = s.transportBusy := rfl
@[simp] theorem stepSetWidth_afterAbort (w : Width) (s : State) : (stepSetWidth w s).afterAbort = s.afterAbort := rfl
@[simp] theorem stepSetWidth_dev (w : Width) (s : State) : (stepSetWidth w s).dev = s.dev := rfl
@[simp] theorem stepSetWidth_hostMem (w : Width) (s : State) : (stepSetWidth w s).hostMem = s.hostMem := rfl
@[simp] theorem stepSetWidth_host (w : Width) (s : State) : (stepSetWidth w s).host = s.host := rfl
@[simp] theorem stepSetWidth_hostRead (w : Width) (s : State) : (stepSetWidth w s).hostRead = s.hostRead := rfl
@[simp] theorem stepSetWidth_busyIn (w : Width) (s : State) : (stepSetWidth w s).busyIn = s.busyIn := rfl
@[simp] theorem stepSetWidth_txIn (w : Width) (s : State) : (stepSetWidth w s).txIn = s.txIn := rfl
@[simp] theorem stepSetWidth_drawn (w : Width) (s : State) : (stepSetWidth w s).drawn = s.drawn := rfl
@[simp] theorem stepSetWidth_trace (w : Width) (s : State) : (stepSetWidth w s).trace = s.trace ++ [.width w] := rfl
@[simp] theorem stepSetWidth_cfg (w : Width) (s : State) : (stepSetWidth w s).cfg = s.cfg := rfl

/-! ### beforeIssue -/

theorem beforeIssue_rdsr (s : State) : beforeIssue .rdsr s = beginPoll s := rfl
@[simp] theorem beforeIssue_rdsr_pollCount (s : State) :
    (beforeIssue .rdsr s).pollCount = some (s.pollCount.getD 0) := rfl

/-- Only a status read starts a poll. -/
theorem beforeIssue_of_ne {b : BusStmt} (h : b ≠ .rdsr) (s : State) : beforeIssue b s = s := by
  cases b <;> first | rfl | exact absurd rfl h

@[simp] theorem beforeIssue_cmd (b : BusStmt) (s : State) : (beforeIssue b s).cmd = s.cmd := by
  cases b <;> rfl
@[simp] theorem beforeIssue_addr (b : BusStmt) (s : State) : (beforeIssue b s).addr = s.addr := by
  cases b <;> rfl
@[simp] theorem beforeIssue_len (b : BusStmt) (s : State) : (beforeIssue b s).len = s.len := by
  cases b <;> rfl
@[simp] theorem beforeIssue_index (b : BusStmt) (s : State) : (beforeIssue b s).index = s.index := by
  cases b <;> rfl
@[simp] theorem beforeIssue_buf (b : BusStmt) (s : State) : (beforeIssue b s).buf = s.buf := by
  cases b <;> rfl
@[simp] theorem beforeIssue_lifecycle (b : BusStmt) (s : State) : (beforeIssue b s).lifecycle = s.lifecycle := by
  cases b <;> rfl
@[simp] theorem beforeIssue_ctrlBusy (b : BusStmt) (s : State) : (beforeIssue b s).ctrlBusy = s.ctrlBusy := by
  cases b <;> rfl
@[simp] theorem beforeIssue_result (b : BusStmt) (s : State) : (beforeIssue b s).result = s.result := by
  cases b <;> rfl
@[simp] theorem beforeIssue_busWidth (b : BusStmt) (s : State) : (beforeIssue b s).busWidth = s.busWidth := by
  cases b <;> rfl
@[simp] theorem beforeIssue_seq (b : BusStmt) (s : State) : (beforeIssue b s).seq = s.seq := by
  cases b <;> rfl
@[simp] theorem beforeIssue_cursor (b : BusStmt) (s : State) : (beforeIssue b s).cursor = s.cursor := by
  cases b <;> rfl
@[simp] theorem beforeIssue_idleCount (b : BusStmt) (s : State) : (beforeIssue b s).idleCount = s.idleCount := by
  cases b <;> rfl
@[simp] theorem beforeIssue_idBytes (b : BusStmt) (s : State) : (beforeIssue b s).idBytes = s.idBytes := by
  cases b <;> rfl
@[simp] theorem beforeIssue_srByte (b : BusStmt) (s : State) : (beforeIssue b s).srByte = s.srByte := by
  cases b <;> rfl
@[simp] theorem beforeIssue_transportBusy (b : BusStmt) (s : State) : (beforeIssue b s).transportBusy = s.transportBusy := by
  cases b <;> rfl
@[simp] theorem beforeIssue_afterAbort (b : BusStmt) (s : State) : (beforeIssue b s).afterAbort = s.afterAbort := by
  cases b <;> rfl
@[simp] theorem beforeIssue_dev (b : BusStmt) (s : State) : (beforeIssue b s).dev = s.dev := by
  cases b <;> rfl
@[simp] theorem beforeIssue_hostMem (b : BusStmt) (s : State) : (beforeIssue b s).hostMem = s.hostMem := by
  cases b <;> rfl
@[simp] theorem beforeIssue_host (b : BusStmt) (s : State) : (beforeIssue b s).host = s.host := by
  cases b <;> rfl
@[simp] theorem beforeIssue_hostRead (b : BusStmt) (s : State) : (beforeIssue b s).hostRead = s.hostRead := by
  cases b <;> rfl
@[simp] theorem beforeIssue_busyIn (b : BusStmt) (s : State) : (beforeIssue b s).busyIn = s.busyIn := by
  cases b <;> rfl
@[simp] theorem beforeIssue_txIn (b : BusStmt) (s : State) : (beforeIssue b s).txIn = s.txIn := by
  cases b <;> rfl
@[simp] theorem beforeIssue_drawn (b : BusStmt) (s : State) : (beforeIssue b s).drawn = s.drawn := by
  cases b <;> rfl
@[simp] theorem beforeIssue_trace (b : BusStmt) (s : State) : (beforeIssue b s).trace = s.trace := by
  cases b <;> rfl
@[simp] theorem beforeIssue_cfg (b : BusStmt) (s : State) : (beforeIssue b s).cfg = s.cfg := by
  cases b <;> rfl

/-! ### resetController -/

@[simp] theorem resetController_cmd (w : Width) (b : Bool) (s : State) : (resetController w b s).cmd = 0x00 := rfl
@[simp] theorem resetController_addr (w : Width) (b : Bool) (s : State) : (resetController w b s).addr = none := rfl
@[simp] theorem resetController_len (w : Width) (b : Bool) (s : State) : (resetController w b s).len = none := rfl
@[simp] theorem resetController_index (w : Width) (b : Bool) (s : State) : (resetController w b s).index = none := rfl
@[simp] theorem resetController_buf (w : Width) (b : Bool) (s : State) : (resetController w b s).buf = none := rfl
@[simp] theorem resetController_lifecycle (w : Width) (b : Bool) (s : State) : (resetController w b s).lifecycle = .uninit := rfl
@[simp] theorem resetController_ctrlBusy (w : Width) (b : Bool) (s : State) : (resetController w b s).ctrlBusy = false := rfl
@[simp] theorem resetController_result (w : Width) (b : Bool) (s : State) : (resetController w b s).result = ⟨codeOk, .none⟩ := rfl
@[simp] theorem resetController_busWidth (w : Width) (b : Bool) (s : State) : (resetController w b s).busWidth = w := rfl
@[simp] theorem resetController_seq (w : Width) (b : Bool) (s : State) : (resetController w b s).seq = .idle := rfl
@[simp] theorem resetController_cursor (w : Width) (b : Bool) (s : State) : (resetController w b s).cursor = none := rfl
@[simp] theorem resetController_pollCount (w : Width) (b : Bool) (s : State) : (resetController w b s).pollCount = none := rfl
@[simp] theorem resetController_idleCount (w : Width) (b : Bool) (s : State) : (resetController w b s).idleCount = none := rfl
@[simp] theorem resetController_idBytes (w : Width) (b : Bool) (s : State) : (resetController w b s).idBytes = none := rfl
@[simp] theorem resetController_srByte (w : Width) (b : Bool) (s : State) : (resetController w b s).srByte = none := rfl
@[simp] theorem resetController_transportBusy (w : Width) (b : Bool) (s : State) : (resetController w b s).transportBusy = b := rfl
@[simp] theorem resetController_afterAbort (w : Width) (b : Bool) (s : State) : (resetController w b s).afterAbort = s.afterAbort := rfl
@[simp] theorem resetController_dev (w : Width) (b : Bool) (s : State) : (resetController w b s).dev = s.dev := rfl
@[simp] theorem resetController_hostMem (w : Width) (b : Bool) (s : State) : (resetController w b s).hostMem = s.hostMem := rfl
@[simp] theorem resetController_host (w : Width) (b : Bool) (s : State) : (resetController w b s).host = s.host := rfl
@[simp] theorem resetController_hostRead (w : Width) (b : Bool) (s : State) : (resetController w b s).hostRead = s.hostRead := rfl
@[simp] theorem resetController_busyIn (w : Width) (b : Bool) (s : State) : (resetController w b s).busyIn = s.busyIn := rfl
@[simp] theorem resetController_txIn (w : Width) (b : Bool) (s : State) : (resetController w b s).txIn = s.txIn := rfl
@[simp] theorem resetController_drawn (w : Width) (b : Bool) (s : State) : (resetController w b s).drawn = s.drawn := rfl
@[simp] theorem resetController_trace (w : Width) (b : Bool) (s : State) : (resetController w b s).trace = s.trace := rfl
@[simp] theorem resetController_cfg (w : Width) (b : Bool) (s : State) : (resetController w b s).cfg = s.cfg := rfl

/-! ### What a draw takes -/

theorem nextTx_cons {s : State} {d : TxDraw} {r : List TxDraw} (h : s.txIn = d :: r) : (nextTx s).1 = d := by
  simp [nextTx, h]

theorem nextBusy_cons {s : State} {b : Bool} {r : List Bool} (h : s.busyIn = b :: r) : (nextBusy s).1 = b := by
  simp [nextBusy, h]

theorem nextTx_drawn_cons {s : State} {d : TxDraw} {r : List TxDraw} (h : s.txIn = d :: r) :
    (nextTx s).2.drawn = s.drawn := by
  simp [nextTx, h]

theorem nextBusy_drawn_cons {s : State} {b : Bool} {r : List Bool} (h : s.busyIn = b :: r) :
    (nextBusy s).2.drawn = s.drawn := by
  simp [nextBusy, h]

/-- A raise outside READ leaves the host's memory and the free values alone. -/
theorem spoilBuffer_of_not_read {s : State} (h : runningOp s ≠ some .read) : spoilBuffer s = s := by
  unfold spoilBuffer
  split <;> simp_all

end Sys2Proof.Machine
end

