-- ==== Sys2Proof/Laws/Transact.lean ====
section
/-! SUPPORT. `Transact` in normal form: what a bus command's meaning answers for each kind of draw, and what it leaves
whatever the draw. -/
namespace Sys2Proof.Machine
open Sys2Proof

/-- The effect of each bus command at the device. -/
def busEffect (c : Config) : Instr → DevEffect
  | .rdid => devRdid
  | .wren => devWren
  | .qpien => devQpien
  | .srp => devSrp c.readParamValue
  | .rdsr => devRdsr
  | .frqio a n => devFrqio a.toNat n
  | .pp a tx => devPp a.toNat tx
  | .ser a => devErase (unitRange sectorSize a.toNat)
  | .be32k a => devErase (unitRange block32Size a.toNat)
  | .be64k a => devErase (unitRange block64Size a.toNat)
  | .cer => devErase ⟨0, capacity⟩
  | .init | .eraseChip | .eraseSector | .eraseBlock32K | .eraseBlock64K | .read | .program => fun _ dev => (dev, [])

/-- Where each bus command's received bytes go. -/
def busReceiver : Instr → List Byte → State → State
  | .rdid => recvIdent
  | .rdsr => recvStatus
  | .frqio _ _ => recvWindow
  | .wren | .qpien | .srp | .pp _ _ | .ser _ | .be32k _ | .be64k _ | .cer
  | .init | .eraseChip | .eraseSector | .eraseBlock32K | .eraseBlock64K | .read | .program => recvNothing

/-- RDSR alone is understood while WIP = 1. -/
def busAnytime : Instr → Bool
  | .rdsr => true
  | .rdid | .wren | .qpien | .srp | .frqio _ _ | .pp _ _ | .ser _ | .be32k _ | .be64k _ | .cer
  | .init | .eraseChip | .eraseSector | .eraseBlock32K | .eraseBlock64K | .read | .program => false

/-- The addresses and payloads a bus command may carry without a fault (20_memory R60, R76). -/
def busInside : Instr → Prop
  | .pp a tx => a.toNat < capacity ∧ tx.length ≤ pageSize
  | .ser a | .be32k a | .be64k a => a.toNat < capacity
  | .rdid | .wren | .qpien | .srp | .rdsr | .frqio _ _ | .cer
  | .init | .eraseChip | .eraseSector | .eraseBlock32K | .eraseBlock64K | .read | .program => True

/-- A bus command's meaning is its transaction, where its address and payload are inside. -/
theorem exec_bus {s : State} {i : Instr} (h : opOf i = none) (hi : busInside i) :
    exec i s = .next (transact i (busAnytime i) (busEffect s.cfg i) (busReceiver i) s) := by
  cases i <;> simp only [opOf, reduceCtorEq] at h <;> try rfl
  all_goals
    simp only [busInside] at hi
    simp only [exec, execPp, execSer, execBe32k, execBe64k]
    rw [if_neg (by omega)]
    try rw [if_neg (by omega)]
    rfl

/-- A bus command that answers a next state was inside. -/
theorem busInside_of_next {s t : State} {i : Instr} (h : opOf i = none) (he : exec i s = .next t) : busInside i := by
  cases i <;> simp only [opOf, reduceCtorEq] at h <;> simp only [busInside]
  all_goals
    simp only [exec, execPp, execSer, execBe32k, execBe64k] at he
    split at he
    · cases he
    · first
        | omega
        | (split at he
           · cases he
           · omega)

theorem exec_bus_next {s t : State} {i : Instr} (h : opOf i = none) (he : exec i s = .next t) :
    busInside i ∧ t = transact i (busAnytime i) (busEffect s.cfg i) (busReceiver i) s := by
  have hi := busInside_of_next h he
  rw [exec_bus h hi] at he
  exact ⟨hi, by cases he; rfl⟩

/-- A well-formed instruction is inside. -/
theorem busInside_of_wellFormed {c : Config} {i : Instr} (hc : c.Valid) (h : wellFormed c i = true) :
    busInside i := by
  have hchunk : c.chunk ≤ pageSize := Nat.le_of_dvd (by decide) (Nat.dvd_of_mod_eq_zero hc.2.1)
  cases i <;> simp only [busInside] <;> simp only [wellFormed, decide_eq_true_eq, WindowLen, InOnePage, UnitAddr] at h
  · exact ⟨h.2.2, by omega⟩
  all_goals exact h.2

theorem tame_busEffect {c : Config} {i : Instr} (hi : busInside i) : TameEffect (busEffect c i) := by
  have hr : ∀ size a, size ∣ capacity → a < capacity → (unitRange size a).base + (unitRange size a).size ≤ capacity := by
    intro size a hd ha
    obtain ⟨k, hk⟩ := hd
    have hpos : 0 < size := by
      rcases Nat.eq_zero_or_pos size with h | h
      · subst h; simp [capacity] at hk
      · exact h
    simp only [unitRange]
    have hlt : a / size < k := by
      rw [Nat.div_lt_iff_lt_mul hpos, Nat.mul_comm]; omega
    have h1 : a - a % size = size * (a / size) := by have := Nat.div_add_mod a size; omega
    rw [h1, hk, ← Nat.mul_succ]
    exact Nat.mul_le_mul_left _ hlt
  cases i <;> simp only [busInside] at hi <;> simp only [busEffect]
  case rdid => exact tame_devRdid
  case wren => exact tame_devWren
  case qpien => exact tame_devQpien
  case srp => exact tame_devSrp _
  case rdsr => exact tame_devRdsr
  case frqio => exact tame_devFrqio _ _
  case pp => exact tame_devPp hi.1 hi.2
  case ser => exact tame_devErase (hr _ _ (by decide) hi)
  case be32k => exact tame_devErase (hr _ _ (by decide) hi)
  case be64k => exact tame_devErase (hr _ _ (by decide) hi)
  case cer => exact tame_devErase (by simp)
  all_goals exact tame_id fun _ _ => []

/-! ### The device and the outcome -/

theorem transactDevice_ok {d : TxDraw} (h : d.fail = none) (t : Desc) (anytime aborted : Bool) (eff : DevEffect)
    (dev : Device) :
    transactDevice d t anytime aborted eff dev
      = ((receive d t.w anytime aborted eff (settle d.done dev)).1,
         .ok (fitBytes t.rx (d.answer.getD (receive d t.w anytime aborted eff (settle d.done dev)).2))) := by
  simp [transactDevice, h]

theorem transactDevice_err {d : TxDraw} {e : Nat} {k : Reach} (h : d.fail = some (e, k)) (t : Desc) (anytime aborted : Bool)
    (eff : DevEffect) (dev : Device) :
    transactDevice d t anytime aborted eff dev
      = (afterFailure k (settle d.done dev) (receive d t.w anytime aborted eff (settle d.done dev)).1, .err e) := by
  simp [transactDevice, h]

/-- The device after a transaction, whatever the draw: as it was or with its write completed; or received; or torn. -/
theorem transactDevice_dev_cases (d : TxDraw) (t : Desc) (anytime aborted : Bool) (eff : DevEffect) (dev : Device) :
    (transactDevice d t anytime aborted eff dev).1 = settle d.done dev
      ∨ (transactDevice d t anytime aborted eff dev).1 = (receive d t.w anytime aborted eff (settle d.done dev)).1
      ∨ (transactDevice d t anytime aborted eff dev).1 = tearWrite (receive d t.w anytime aborted eff (settle d.done dev)).1 := by
  unfold transactDevice
  dsimp only
  split
  · next e r _ => exact afterFailure_cases r _ _
  · exact .inr (.inl rfl)

theorem deviceInv_transactDevice {eff : DevEffect} (he : TameEffect eff) {dev : Device} (h : DeviceInv dev)
    (d : TxDraw) (t : Desc) (anytime aborted : Bool) : DeviceInv (transactDevice d t anytime aborted eff dev).1 := by
  have hs := deviceInv_settle h d.done
  have hr := deviceInv_receive he hs d t.w anytime aborted
  rcases transactDevice_dev_cases d t anytime aborted eff dev with hc | hc | hc <;> rw [hc]
  · exact hs
  · exact hr
  · exact deviceInv_tearWrite hr

theorem transactDevice_chip {eff : DevEffect} (he : TameEffect eff) (d : TxDraw) (t : Desc) (anytime aborted : Bool)
    (dev : Device) : (transactDevice d t anytime aborted eff dev).1.chip = dev.chip := by
  rcases transactDevice_dev_cases d t anytime aborted eff dev with hc | hc | hc <;> rw [hc] <;>
    simp [receive_chip he]

/-- A transaction that the device understands or ignores writes no byte of the array: all it can do is find the write in
progress completed. -/
theorem arrayByte_transactDevice {eff : DevEffect} (he : TameEffect eff) {d : TxDraw} {t : Desc}
    {anytime aborted : Bool} {dev : Device} (h : Heeds d t.w anytime aborted dev) (x : Nat) :
    arrayByte (transactDevice d t anytime aborted eff dev).1 x = arrayByte (settle d.done dev) x := by
  have hr := sameArray_receive he (heeds_settle h d.done)
  rcases transactDevice_dev_cases d t anytime aborted eff dev with hc | hc | hc <;> rw [hc]
  · exact arrayByte_congr hr x
  · exact arrayByte_congr (hr.trans (sameArray_tearWrite _)) x

/-! ### Transact -/

/-- A transaction that the transport completes: the bytes go to their register, SEQ advances. -/
theorem transact_ok {s : State} {d : TxDraw} {r : List TxDraw} (htx : s.txIn = d :: r) (hf : d.fail = none)
    (i : Instr) (anytime : Bool) (eff : DevEffect) (recv : List Byte → State → State) :
    transact i anytime eff recv s =
      let now := receive d (descriptor s.cfg s.busWidth i).w anytime s.afterAbort eff (settle d.done s.dev)
      let rx := fitBytes (descriptor s.cfg s.busWidth i).rx (d.answer.getD now.2)
      advance (recv rx
        { s with
          txIn := r, dev := now.1, trace := s.trace ++ [.tx (descriptor s.cfg s.busWidth i) (.ok rx)] }) := by
  have h1 : nextTx s = (d, { s with txIn := r }) := by simp [nextTx, htx]
  simp only [transact, afterTransact, h1, transactDevice_ok hf, logEvent]

/-- A transaction that fails: TRANSPORT_ERROR is raised after its event. -/
theorem transact_err {s : State} {d : TxDraw} {r : List TxDraw} {e : Nat} {k : Reach} (htx : s.txIn = d :: r)
    (hf : d.fail = some (e, k)) (i : Instr) (anytime : Bool) (eff : DevEffect)
    (recv : List Byte → State → State) :
    transact i anytime eff recv s =
      raiseError codeTransportError (.transport e (descriptor s.cfg s.busWidth i).cmd)
        { s with
          txIn := r,
          dev := afterFailure k (settle d.done s.dev)
            (receive d (descriptor s.cfg s.busWidth i).w anytime s.afterAbort eff (settle d.done s.dev)).1,
          trace := s.trace ++ [.tx (descriptor s.cfg s.busWidth i) (.err e)] } := by
  have h1 : nextTx s = (d, { s with txIn := r }) := by simp [nextTx, htx]
  simp only [transact, afterTransact, h1, transactDevice_err hf, logEvent]

/-- Every transaction does one of two things after its event: it stores the bytes and advances, or it raises. -/
theorem transact_cases (i : Instr) (anytime : Bool) (eff : DevEffect) (recv : List Byte → State → State) (s : State) :
    (∃ rx, (transactDevice (nextTx s).1 (descriptor s.cfg s.busWidth i) anytime s.afterAbort eff s.dev).2 = .ok rx ∧
        transact i anytime eff recv s
          = advance (recv rx (afterTransact (descriptor s.cfg s.busWidth i) anytime eff s)))
      ∨ ∃ e, (transactDevice (nextTx s).1 (descriptor s.cfg s.busWidth i) anytime s.afterAbort eff s.dev).2 = .err e ∧
        transact i anytime eff recv s
          = raiseError codeTransportError (.transport e (descriptor s.cfg s.busWidth i).cmd)
              (afterTransact (descriptor s.cfg s.busWidth i) anytime eff s) := by
  unfold transact
  dsimp only
  split <;> simp_all

/-! ### What received bytes change -/

@[simp] theorem busReceiver_cmd (i : Instr) (rx : List Byte) (s : State) : (busReceiver i rx s).cmd = s.cmd := by
  cases i <;> simp [busReceiver]
@[simp] theorem busReceiver_addr (i : Instr) (rx : List Byte) (s : State) : (busReceiver i rx s).addr = s.addr := by
  cases i <;> simp [busReceiver]
@[simp] theorem busReceiver_len (i : Instr) (rx : List Byte) (s : State) : (busReceiver i rx s).len = s.len := by
  cases i <;> simp [busReceiver]
@[simp] theorem busReceiver_index (i : Instr) (rx : List Byte) (s : State) : (busReceiver i rx s).index = s.index := by
  cases i <;> simp [busReceiver]
@[simp] theorem busReceiver_buf (i : Instr) (rx : List Byte) (s : State) : (busReceiver i rx s).buf = s.buf := by
  cases i <;> simp [busReceiver]
@[simp] theorem busReceiver_lifecycle (i : Instr) (rx : List Byte) (s : State) : (busReceiver i rx s).lifecycle = s.lifecycle := by
  cases i <;> simp [busReceiver]
@[simp] theorem busReceiver_ctrlBusy (i : Instr) (rx : List Byte) (s : State) : (busReceiver i rx s).ctrlBusy = s.ctrlBusy := by
  cases i <;> simp [busReceiver]
@[simp] theorem busReceiver_result (i : Instr) (rx : List Byte) (s : State) : (busReceiver i rx s).result = s.result := by
  cases i <;> simp [busReceiver]
@[simp] theorem busReceiver_busWidth (i : Instr) (rx : List Byte) (s : State) : (busReceiver i rx s).busWidth = s.busWidth := by
  cases i <;> simp [busReceiver]
@[simp] theorem busReceiver_seq (i : Instr) (rx : List Byte) (s : State) : (busReceiver i rx s).seq = s.seq := by
  cases i <;> simp [busReceiver]
@[simp] theorem busReceiver_cursor (i : Instr) (rx : List Byte) (s : State) : (busReceiver i rx s).cursor = s.cursor := by
  cases i <;> simp [busReceiver]
@[simp] theorem busReceiver_pollCount (i : Instr) (rx : List Byte) (s : State) : (busReceiver i rx s).pollCount = s.pollCount := by
  cases i <;> simp [busReceiver]
@[simp] theorem busReceiver_idleCount (i : Instr) (rx : List Byte) (s : State) : (busReceiver i rx s).idleCount = s.idleCount := by
  cases i <;> simp [busReceiver]
@[simp] theorem busReceiver_transportBusy (i : Instr) (rx : List Byte) (s : State) : (busReceiver i rx s).transportBusy = s.transportBusy := by
  cases i <;> simp [busReceiver]
/-- A status read alone can show that an aborted write is over (70_reset R301). -/
theorem busReceiver_afterAbort {i : Instr} (h : i ≠ .rdsr) (rx : List Byte) (s : State) :
    (busReceiver i rx s).afterAbort = s.afterAbort := by
  cases i <;> first | exact absurd rfl h | simp [busReceiver]
@[simp] theorem busReceiver_dev (i : Instr) (rx : List Byte) (s : State) : (busReceiver i rx s).dev = s.dev := by
  cases i <;> simp [busReceiver]
@[simp] theorem busReceiver_host (i : Instr) (rx : List Byte) (s : State) : (busReceiver i rx s).host = s.host := by
  cases i <;> simp [busReceiver]
@[simp] theorem busReceiver_hostRead (i : Instr) (rx : List Byte) (s : State) : (busReceiver i rx s).hostRead = s.hostRead := by
  cases i <;> simp [busReceiver]
@[simp] theorem busReceiver_busyIn (i : Instr) (rx : List Byte) (s : State) : (busReceiver i rx s).busyIn = s.busyIn := by
  cases i <;> simp [busReceiver]
@[simp] theorem busReceiver_txIn (i : Instr) (rx : List Byte) (s : State) : (busReceiver i rx s).txIn = s.txIn := by
  cases i <;> simp [busReceiver]
@[simp] theorem busReceiver_drawn (i : Instr) (rx : List Byte) (s : State) : (busReceiver i rx s).drawn = s.drawn := by
  cases i <;> simp [busReceiver]
@[simp] theorem busReceiver_trace (i : Instr) (rx : List Byte) (s : State) : (busReceiver i rx s).trace = s.trace := by
  cases i <;> simp [busReceiver]
@[simp] theorem busReceiver_cfg (i : Instr) (rx : List Byte) (s : State) : (busReceiver i rx s).cfg = s.cfg := by
  cases i <;> simp [busReceiver]

/-- A READ that fails leaves every byte of the host below the failing window and beyond BUF (44_read R220). -/
theorem memGet_spoilBuffer {s : State} (hm : memWf hostDefault s.hostMem) {w : Window} {b : Nat} {n : Word}
    (h1 : runningOp s = some .read) (h2 : currentWindow s = some w) (h3 : s.buf = some b) (h4 : s.len = some n)
    {x : Nat} (hx : x < b + w.off ∨ b + n.toNat ≤ x) :
    memGet hostDefault (spoilBuffer s).hostMem x = memGet hostDefault s.hostMem x := by
  unfold spoilBuffer
  simp only [h1, h2, h3, h4]
  rw [memGet_memFill hm, if_neg (by omega)]

theorem memWf_spoilBuffer {s : State} (hm : memWf hostDefault s.hostMem) :
    memWf hostDefault (spoilBuffer s).hostMem := by
  unfold spoilBuffer
  split
  · exact memWf_memFill hm _ _ _
  · exact hm

theorem memWf_busReceiver {s : State} (hm : memWf hostDefault s.hostMem) (i : Instr) (rx : List Byte) :
    memWf hostDefault (busReceiver i rx s).hostMem := by
  cases i <;> simp only [busReceiver] <;> try exact hm
  unfold recvWindow
  split
  · exact memWf_memWrite hm _ _
  · exact hm

/-- The device after a transaction, whatever it does with the bytes. -/
theorem transact_dev (i j : Instr) (anytime : Bool) (eff : DevEffect) (s : State) :
    (transact i anytime eff (busReceiver j) s).dev
      = (transactDevice (nextTx s).1 (descriptor s.cfg s.busWidth i) anytime s.afterAbort eff s.dev).1 := by
  rcases transact_cases i anytime eff (busReceiver j) s with ⟨rx, _, h⟩ | ⟨e, _, h⟩ <;> rw [h] <;>
    simp [afterTransact]

/-- A host operation's meaning is the issue of its operation. -/
theorem exec_op {i : Instr} {op : Op} (h : opOf i = some op) (s : State) : exec i s = issueOp op s := by
  cases i <;> simp only [opOf, Option.some.injEq, reduceCtorEq] at h <;> subst h <;> rfl

@[simp] theorem descriptor_w (c : Config) (w : Width) (i : Instr) : (descriptor c w i).w = w := by
  cases i <;> rfl

end Sys2Proof.Machine
end

