-- ==== Sys2Proof/Laws/Step.lean ====
section
/-! SUPPORT. Steps and runs: the step at a statement while the host waits, runs put together, and what one busy query
does. -/
namespace Sys2Proof.Machine
open Sys2Proof

/-- While an operation runs and the host waits, a step is the sequencer's. -/
theorem step_quiet {s : State} (hc : s.cfg.Valid) (hh : hostWaits s.host = true) (hb : s.ctrlBusy = true) :
    step s = runSequencer s := by
  unfold step
  rw [if_pos hc]
  cases h : s.host with
  | nil => simp
  | cons e r => cases e <;> simp_all [hostWaits]

/-- The step at a statement of a running operation. -/
theorem step_at {s : State} {op : Op} {pc : Nat} {st : Stmt} (hc : s.cfg.Valid) (hh : hostWaits s.host = true)
    (hb : s.ctrlBusy = true) (hs : s.seq = .at op pc) (hr : (ruleOf op)[pc]? = some st) :
    step s = runStmt op pc st s := by
  rw [step_quiet hc hh hb]
  simp only [runSequencer, hs, hr]

/-- Everything a step can be: the sequencer's, the end of an `await`, or a host action. -/
theorem step_cases (s : State) (hc : s.cfg.Valid) :
    (∃ r, step s = runSequencer { s with host := r } ∧ (s.host = r ∨ s.host = .pass :: r))
      ∨ (∃ r, step s = .next { s with host := r } ∧ s.host = .await :: r)
      ∨ ∃ a r, step s = hostAct a { s with host := r } ∧ s.host = .act a :: r := by
  unfold step
  rw [if_pos hc]
  rcases h : s.host with _ | ⟨e, r⟩
  · exact .inl ⟨s.host, rfl, .inl h.symm⟩
  · rcases e with a | _ | _
    · exact .inr (.inr ⟨a, r, rfl, rfl⟩)
    · simp only
      split
      · exact .inl ⟨s.host, rfl, .inl h.symm⟩
      · exact .inr (.inl ⟨r, rfl, rfl⟩)
    · exact .inl ⟨r, rfl, .inr rfl⟩

theorem valid_of_next {s t : State} (h : step s = .next t) : s.cfg.Valid := by
  unfold step at h
  split at h
  · assumption
  · cases h

theorem valid_of_fault {s : State} {f : Fault} (h : step s = .fault f) : s.cfg.Valid := by
  unfold step at h
  split at h
  · assumption
  · cases h

/-- The step of a CMD write. -/
theorem step_command {s : State} {b : Byte} {r : List HostEvent} {i : Instr} (hc : s.cfg.Valid)
    (hh : s.host = .act (.writeCmd b) :: r) (hb : s.ctrlBusy = false) (hd : decodeCmd b = .ok i) :
    step s = exec i { s with host := r, cmd := b } := by
  unfold step
  rw [if_pos hc]
  simp only [hh, hostAct, writeCommand, hb, hd]
  rfl

theorem runSteps_succ {s t : State} (h : step s = .next t) (k : Nat) : runSteps (k + 1) s = runSteps k t := by
  simp only [runSteps, h]

theorem runSteps_add {s t : State} {m : Nat} (h : runSteps m s = .next t) (n : Nat) :
    runSteps (m + n) s = runSteps n t := by
  induction m generalizing s with
  | zero =>
    simp only [runSteps, Host.Outcome.next.injEq] at h
    rw [h, Nat.zero_add]
  | succ m ih =>
    cases hs : step s with
    | next u =>
      rw [runSteps_succ hs] at h
      rw [Nat.succ_add, runSteps_succ hs, ih h]
    | fault f => simp only [runSteps, hs, reduceCtorEq] at h
    | refused f => simp only [runSteps, hs, reduceCtorEq] at h

/-- A busy query that finds the transport idle ends the wait. -/
theorem stepWaitIdle_idle {s : State} {r : List Bool} (h : s.busyIn = false :: r) :
    stepWaitIdle s =
      { s with
        busyIn := r, transportBusy := false, idleCount := none, seq := seqAfter s.seq,
        trace := s.trace ++ [.busy false] } := by
  simp [stepWaitIdle, queryBusy, nextBusy, h, advance, logEvent]

/-- A busy query that finds the transport busy counts. -/
theorem stepWaitIdle_busy {s : State} {r : List Bool} (h : s.busyIn = true :: r)
    (hb : boundReached s.cfg.maxIdleQueries (s.idleCount.getD 0 + 1) = false) :
    stepWaitIdle s =
      { s with
        busyIn := r, transportBusy := true, idleCount := some (s.idleCount.getD 0 + 1),
        trace := s.trace ++ [.busy true] } := by
  simp [stepWaitIdle, queryBusy, nextBusy, h, logEvent, hb]

theorem boundReached_eq_false {b : Option Nat} {n : Nat} (h : ∀ k, b = some k → n < k) : boundReached b n = false := by
  unfold boundReached
  split
  · next k => simpa using h k rfl
  · rfl

end Sys2Proof.Machine
end

