-- ==== Sys2Proof/Laws/Sequencer.lean ====
section
/-! SUPPORT. The chunker's two equations and its windows, and the sequencer's window loop. -/
namespace Sys2Proof.Machine
open Sys2Proof

/-! ### The chunker (43_chunker R200) -/

theorem chunksFrom_nothing (c fuel cur off : Nat) : chunksFrom c fuel cur off 0 = [] := by
  cases fuel <;> simp [chunksFrom]

theorem chunksFrom_next {c fuel cur off rem : Nat} (h : rem ≠ 0) :
    chunksFrom c (fuel + 1) cur off rem
      = ⟨cur, min rem (c - cur % c), off⟩
        :: chunksFrom c fuel (cur + min rem (c - cur % c)) (off + min rem (c - cur % c))
            (rem - min rem (c - cur % c)) := by
  simp [chunksFrom, h]

/-! ### The window loop (10_state R33, R34) -/

/-- Window `k` of the list `ws` is the next one the loop takes. -/
def NextWindow (s : State) (ws : List Window) (k : Nat) : Prop :=
  s.cursor = none ∧ k = 0 ∨ ∃ j, s.cursor = some ⟨ws, j⟩ ∧ k = j + 1

theorem nextCursor_of_nextWindow {s : State} {a n : Word} {k : Nat}
    (h : NextWindow s (chunks s.cfg.chunk a.toNat n.toNat) k) :
    nextCursor a n s = ⟨chunks s.cfg.chunk a.toNat n.toNat, k⟩ := by
  rcases h with ⟨h, rfl⟩ | ⟨j, h, rfl⟩ <;> simp [nextCursor, h]

/-- The head of the loop: into the body for the next window, or past the loop when none remains. -/
theorem stepForWindow_eq {s : State} {op : Op} {a n : Word} {k : Nat} (ha : s.addr = some a) (hn : s.len = some n)
    (h : NextWindow s (chunks s.cfg.chunk a.toNat n.toNat) k) :
    stepForWindow op s
      = if k < (chunks s.cfg.chunk a.toNat n.toNat).length then
          .next (advance { s with cursor := some ⟨chunks s.cfg.chunk a.toNat n.toNat, k⟩ })
        else .next (gotoPc op (loopExit op) { s with cursor := some ⟨chunks s.cfg.chunk a.toNat n.toNat, k⟩ }) := by
  simp [stepForWindow, ha, hn, operand, nextCursor_of_nextWindow h]

/-- The current window is the one the cursor points at. -/
theorem currentWindow_of_cursor {s : State} {ws : List Window} {k : Nat} (h : s.cursor = some ⟨ws, k⟩) :
    currentWindow s = ws[k]? := by
  simp [currentWindow, h]

/-- The bus command of READ's and of PROGRAM's window statement. -/
theorem readCommand_eq {s : State} {w : Window} {b : Nat} (hw : currentWindow s = some w) (hb : s.buf = some b) :
    readCommand s = .ok (.frqio (BitVec.ofNat 24 w.addr) w.len) := by
  simp [readCommand, hw, hb, operand, Except.map]

theorem programCommand_eq {s : State} {w : Window} {b : Nat} (hw : currentWindow s = some w) (hb : s.buf = some b) :
    programCommand s
      = .ok (.pp (BitVec.ofNat 24 w.addr) (memBytes hostDefault s.hostMem (b + w.off) w.len)) := by
  simp [programCommand, hw, hb, operand, Except.map]

/-! ### Traces -/

theorem busEvents_append (t u : List Event) : busEvents (t ++ u) = busEvents t ++ busEvents u := by
  simp [busEvents]

theorem busEvents_of_all {t : List Event} (h : ∀ e ∈ t, isBusEvent e = true) : busEvents t = t :=
  List.filter_eq_self.mpr h

end Sys2Proof.Machine
end

