-- ==== Sys2Proof/Tests/Slice0.lean ====
section
/-! SUPPORT. The model's own tests: the WellFormed smoke test, decode of words written out from 30_encoding, one step of
each instruction with the results of spec/95_test_vectors.md, and a witness for the hypotheses of each statement. -/
namespace Sys2Proof.Tests
open Sys2Proof Sys2Proof.Machine

/-! ### Helpers -/

/-- The next state has a property. -/
def leads (o : Host.Outcome State Fault Refusal) (p : State → Bool) : Bool :=
  match o with
  | .next t => p t
  | .fault _ | .refused _ => false

def clean : TxDraw := ⟨none, true, none, [], ⟨0x00, 0x00, .spi1, 1⟩, true, false, true, true, false⟩
def slow : TxDraw := { clean with done := false }
def failing : TxDraw := { clean with fail := some (7, .lost) }
def torn : TxDraw := { clean with fail := some (7, .torn) }
def answers (bs : List Byte) : TxDraw := { clean with answer := some bs }

/-- An erased device in QPI4, idle. -/
def qpiDev : Device := { Device.standard with mode := .qpi4, readParam := 0xF0, unerased := [] }
/-- The same after a WREN. -/
def armed : Device := { qpiDev with sr := 0x02 }
/-- The same while a program runs. -/
def writing : Device := { qpiDev with sr := 0x01, pending := some (.program 0xFE [0xA1, 0xA2, 0xA3, 0xA4]) }

/-- After a successful INIT. -/
def ready : State := { State.reset with lifecycle := .ready, busWidth := .w4, dev := qpiDev }
/-- A device whose first sector two ranges protect together. -/
def halves : Device :=
  { armed with
    sr := 0x06,
    chip := { Chip.standard with protMap := [⟨0b0001#4, ⟨0, 0x800⟩⟩, ⟨0b0001#4, ⟨0x800, 0x800⟩⟩] } }
def draws (ds : List TxDraw) (s : State) : State := { s with txIn := ds }
def device (d : Device) (s : State) : State := { s with dev := d }
def running (op : Op) (pc : Nat) (s : State) : State := { s with ctrlBusy := true, seq := .at op pc }
/-- The host has set the operands of a READ or PROGRAM at 0x1E of 40 bytes, buffer at 100. -/
def ranged (s : State) : State := { s with addr := some 0x1E, len := some 40, buf := some 100 }
def windowed (s : State) : State := { ranged s with cursor := some ⟨chunks 32 0x1E 40, 1⟩ }
def asks (b : Byte) (s : State) : State := { s with host := [.act (.writeCmd b)] }

/-! ### WellFormed refuses an ill-formed term for each check -/

theorem test_wf_frqio_empty : wellFormed Config.standard (.frqio 0 0) = false := by decide
theorem test_wf_frqio_long : wellFormed Config.standard (.frqio 0 33) = false := by decide
theorem test_wf_frqio_past : wellFormed Config.standard (.frqio 0x800000 1) = false := by decide
theorem test_wf_pp_empty : wellFormed Config.standard (.pp 0 []) = false := by decide
theorem test_wf_pp_long : wellFormed Config.standard (.pp 0 (List.replicate 33 0x00)) = false := by decide
theorem test_wf_pp_crosses_page : wellFormed Config.standard (.pp 0xFF [0x01, 0x02]) = false := by decide
theorem test_wf_pp_past : wellFormed Config.standard (.pp 0x800000 [0x01]) = false := by decide
theorem test_wf_ser_misaligned : wellFormed Config.standard (.ser 0x001001) = false := by decide
theorem test_wf_ser_past : wellFormed Config.standard (.ser 0x800000) = false := by decide
theorem test_wf_be32k_misaligned : wellFormed Config.standard (.be32k 0x001000) = false := by decide
theorem test_wf_be32k_past : wellFormed Config.standard (.be32k 0x800000) = false := by decide
theorem test_wf_be64k_misaligned : wellFormed Config.standard (.be64k 0x008000) = false := by decide
theorem test_wf_be64k_past : wellFormed Config.standard (.be64k 0x800000) = false := by decide
theorem test_wf_widths : widthLegal .w4 .rdid = false ∧ widthLegal .w4 .qpien = false ∧ widthLegal .w1 .srp = false ∧
    widthLegal .w1 (.frqio 0 1) = false ∧ widthLegal .w1 (.pp 0 [0x00]) = false ∧ widthLegal .w1 .cer = false := by decide

/-! ### Decode -/

/-- Host codes, bit by bit from 30_encoding R100 and R101: reserved field, then OP. -/
theorem test_decode_host :
    decodeCmd (0b0000#4 ++ 0b0001#4) = .ok .init ∧ decodeCmd (0b0000#4 ++ 0b0010#4) = .ok .eraseChip ∧
    decodeCmd (0b0000#4 ++ 0b0011#4) = .ok .eraseSector ∧ decodeCmd (0b0000#4 ++ 0b0100#4) = .ok .eraseBlock32K ∧
    decodeCmd (0b0000#4 ++ 0b0101#4) = .ok .eraseBlock64K ∧ decodeCmd (0b0000#4 ++ 0b0110#4) = .ok .read ∧
    decodeCmd (0b0000#4 ++ 0b0111#4) = .ok .program := by decide

/-- 95_test_vectors 2.1. -/
theorem test_decode_host_illegal :
    decodeCmd 0x00 = .error .reservedOp ∧ decodeCmd 0x08 = .error .reservedOp ∧ decodeCmd 0x0F = .error .reservedOp ∧
    decodeCmd 0x16 = .error .reservedBits ∧ decodeCmd 0x81 = .error .reservedBits := by decide

/-- Command bytes bit by bit from 30_encoding R110, each in its format of R108; operands at the edges of their range. -/
theorem test_decode_bus_register :
    decodeDesc Config.standard ⟨.w1, 0b10011111, none, none, 0, [], 3⟩ = .ok .rdid ∧
    decodeDesc Config.standard ⟨.w1, 0b00000110, none, none, 0, [], 0⟩ = .ok .wren ∧
    decodeDesc Config.standard ⟨.w1, 0b00110101, none, none, 0, [], 0⟩ = .ok .qpien ∧
    decodeDesc Config.standard ⟨.w4, 0b11000000, none, none, 0, [0b11110000], 0⟩ = .ok .srp ∧
    decodeDesc Config.standard ⟨.w1, 0b00000101, none, none, 0, [], 1⟩ = .ok .rdsr := by decide

theorem test_decode_bus_array :
    decodeDesc Config.standard ⟨.w4, 0b11101011, some 0x7FFFFF, some 0b00000000, 8, [], 32⟩ =
      .ok (.frqio 0x7FFFFF 32) ∧
    decodeDesc Config.standard ⟨.w4, 0b00000010, some 0x7FFFFF, none, 0, [0x42], 0⟩ = .ok (.pp 0x7FFFFF [0x42]) ∧
    decodeDesc Config.standard ⟨.w4, 0b00100000, some 0x001000, none, 0, [], 0⟩ = .ok (.ser 0x001000) ∧
    decodeDesc Config.standard ⟨.w4, 0b01010010, some 0x018000, none, 0, [], 0⟩ = .ok (.be32k 0x018000) ∧
    decodeDesc Config.standard ⟨.w4, 0b11011000, some 0x7F0000, none, 0, [], 0⟩ = .ok (.be64k 0x7F0000) ∧
    decodeDesc Config.standard ⟨.w4, 0b11000111, none, none, 0, [], 0⟩ = .ok .cer := by decide

/-- Each rejection of a descriptor, by name. -/
theorem test_decode_bus_rejects :
    decodeDesc Config.standard ⟨.w4, 0x60, none, none, 0, [], 0⟩ = .error .unknownCommand ∧
    decodeDesc Config.standard ⟨.w4, 0x06, some 0x000000, none, 0, [], 0⟩ = .error .wrongFormat ∧
    decodeDesc Config.standard ⟨.w4, 0x9F, none, none, 0, [], 3⟩ = .error .wrongWidth ∧
    decodeDesc Config.standard ⟨.w4, 0x20, some 0x000800, none, 0, [], 0⟩ = .error .illFormed ∧
    decodeDesc Config.standard ⟨.w4, 0xC0, none, none, 0, [0xE0], 0⟩ = .error .illFormed := by decide

/-- Bus command bytes, bit by bit from 30_encoding R110, as the opcode table numbers them. -/
theorem test_decode_table :
    decodeTableWord 8 0b10011111 = some .rdid ∧ decodeTableWord 8 0b00110101 = some .qpien ∧
    decodeTableWord 8 0b11000000 = some .srp ∧ decodeTableWord 8 0b11101011 = some (.frqio 0 1) ∧
    decodeTableWord 8 0b00100000 = some (.ser 0) ∧ decodeTableWord 8 0b01010010 = some (.be32k 0) ∧
    decodeTableWord 8 0b11011000 = some (.be64k 0) ∧ decodeTableWord 8 0b11000111 = some .cer ∧
    decodeTableWord 8 0b00000001 = some .init ∧ decodeTableWord 8 0b00000111 = some .program ∧
    decodeTableWord 8 0b01100000 = none := by decide

/-- The serial view of 30_encoding R109: FRQIO at 0x123456 takes 2 + 6 + 2 + 8 + 14 cycles at width 4. -/
theorem test_wire :
    wireBytes ⟨.w4, 0xEB, some 0x123456, some 0x00, 8, [], 7⟩ = [0xEB, 0x12, 0x34, 0x56, 0x00] ∧
    wireCycles ⟨.w4, 0xEB, some 0x123456, some 0x00, 8, [], 7⟩ = 32 ∧
    wireCycles ⟨.w1, 0x9F, none, none, 0, [], 3⟩ = 32 := by decide

/-! ### The chunker (43_chunker R210, 95_test_vectors 2.4) -/

theorem test_chunks :
    chunks 32 0 0 = [] ∧ chunks 32 0 64 = [⟨0x000000, 32, 0⟩, ⟨0x000020, 32, 32⟩] ∧
    chunks 32 0x1E 40 = [⟨0x00001E, 2, 0⟩, ⟨0x000020, 32, 2⟩, ⟨0x000040, 6, 34⟩] ∧
    chunks 32 0xFF 2 = [⟨0x0000FF, 1, 0⟩, ⟨0x000100, 1, 1⟩] ∧
    (chunks 32 0x10 300).length = 10 ∧
    chunks 32 0x7FFFC0 63 = [⟨0x7FFFC0, 32, 0⟩, ⟨0x7FFFE0, 31, 32⟩] := by decide

/-! ### One step of each instruction -/

/-- The seven CMD writes on a controller in the LIFECYCLE each asks for (30_encoding R102, R103). -/
theorem test_host_operations_start :
    leads (step (asks 0x01 State.reset)) (fun t => t.ctrlBusy && t.seq == .at .init 0) = true ∧
    leads (step (asks 0x02 ready)) (fun t => t.ctrlBusy && t.seq == .at .eraseChip 0) = true ∧
    leads (step (asks 0x03 ready)) (fun t => t.ctrlBusy && t.seq == .at .eraseSector 0) = true ∧
    leads (step (asks 0x04 ready)) (fun t => t.ctrlBusy && t.seq == .at .eraseBlock32K 0) = true ∧
    leads (step (asks 0x05 ready)) (fun t => t.ctrlBusy && t.seq == .at .eraseBlock64K 0) = true ∧
    leads (step (asks 0x06 ready)) (fun t => t.ctrlBusy && t.seq == .at .read 0) = true ∧
    leads (step (asks 0x07 ready)) (fun t => t.ctrlBusy && t.seq == .at .program 0) = true := by decide

/-- 95_test_vectors 2.1: the STATE_ERROR and ILLEGAL_COMMAND rows. -/
theorem test_host_operations_refused :
    leads (step (asks 0x06 State.reset)) (fun t => t.result == ⟨5, .lifecycle .uninit⟩ && !t.ctrlBusy) = true ∧
    leads (step (asks 0x01 ready)) (fun t => t.result == ⟨5, .lifecycle .ready⟩ && t.lifecycle == .ready) = true ∧
    leads (step (asks 0x81 ready)) (fun t => t.result == ⟨6, .command 0x81⟩ && !t.ctrlBusy) = true := by decide

/-- 95_test_vectors 2.3 E4, E5: an index past the last sector. -/
theorem test_erase_index :
    leads (step (running .eraseSector 0 { ready with index := some 2048 })) (fun t => t.result == ⟨3, .none⟩) = true ∧
    leads (step (running .eraseSector 0 { ready with index := some 2047 })) (fun t => t.seq == .at .eraseSector 1)
      = true := by decide

/-- 95_test_vectors 2.5 R2, R3, R5: the bounds rule does not wrap. -/
theorem test_bounds :
    leads (step (running .read 0 { ready with addr := some 0x7FFFFF, len := some 1 })) (fun t => t.result.code == 3)
      = true ∧
    leads (step (running .read 0 { ready with addr := some 0x7FFFFF, len := some 0 })) (fun t => t.seq == .at .read 1)
      = true ∧
    leads (step (running .program 0 { ready with addr := some 0xFFFFFFFF, len := some 2 })) (fun t => t.result.code == 3)
      = true := by decide

/-- 95_test_vectors 2.2 I1, event 2; and I5, a failed RDID. -/
theorem test_rdid :
    leads (step (running .init 1 (draws [clean] State.reset)))
      (fun t => t.idBytes == some ⟨0x9D, 0x60, 0x17⟩
        && t.trace == [.tx ⟨.w1, 0x9F, none, none, 0, [], 3⟩ (.ok [0x9D, 0x60, 0x17])]) = true := by decide
theorem test_rdid_fails :
    leads (step (running .init 1 (draws [failing] State.reset)))
      (fun t => t.result == ⟨1, .transport 7 0x9F⟩ && t.lifecycle == .initFailed && t.busWidth == .w1) = true := by decide

theorem test_wren :
    leads (step (running .eraseChip 0 (draws [clean] ready))) (fun t => t.dev.sr == 0x02 && t.seq == .at .eraseChip 1)
      = true := by decide
/-- A transaction that is not understood leaves one array of unknown content (20_memory R84), and the run goes on. -/
theorem test_wren_wrong_width :
    leads (step (running .eraseChip 0 (draws [answers []] { ready with busWidth := .w1 })))
      (fun t => t.dev.content == 1 && t.dev.unerased == [⟨0, capacity⟩] && t.dev.doubt == [] && t.dev.pending == none
        && t.seq == .at .eraseChip 1) = true := by decide

/-- While WIP = 1 a WREN is ignored (20_memory R83); after an abort the device may be left unconstrained instead, until a
status read shows WIP = 0 (70_reset R301). -/
theorem test_busy_wren :
    leads (exec .wren (draws [{ slow with ignores := false }] (device writing ready))) (fun t => t.dev == writing) = true ∧
    leads (exec .wren (draws [{ slow with ignores := false }] (device writing { ready with afterAbort := true })))
      (fun t => t.dev.content == 1) = true := by decide
theorem test_abort_ends :
    leads (step (running .eraseChip 3 (draws [failing] (device writing ready)))) (fun t => t.afterAbort) = true ∧
    leads (step (running .eraseChip 3 (draws [slow] (device writing { ready with afterAbort := true }))))
      (fun t => t.afterAbort) = true ∧
    leads (step (running .eraseChip 3 (draws [clean] (device writing { ready with afterAbort := true }))))
      (fun t => !t.afterAbort) = true := by decide

/-- What a torn write leaves: its bytes unspecified, after WIP = 0 too, and no other (60_exceptions R269). -/
theorem test_torn_pp :
    leads (exec (.pp 0x0000FE [0x00, 0x00, 0x00]) (draws [torn] (device armed ready)))
      (fun t => wip t.dev.sr && deviceByte t.dev 0xFF == none && deviceByte t.dev 0x00 == none
        && deviceByte (completeWrite t.dev) 0x00 == none && deviceByte t.dev 0x01 == some 0xFF) = true := by decide

theorem test_qpien :
    leads (step (running .init 5 (draws [clean] (device { Device.standard with sr := 0x02 } State.reset))))
      (fun t => t.dev.mode == .qpi4 && t.busWidth == .w1) = true := by decide

/-- SRP writes READ_PARAM_VALUE; WIP is set when the draw says so (20_memory R80). -/
theorem test_srp :
    leads (step (running .init 8 (draws [{ clean with srpSetsWip := true }] (device { armed with readParam := 0xE0 } ready))))
      (fun t => t.dev.readParam == 0xF0 && wip t.dev.sr && t.seq == .at .init 9) = true := by decide

/-- RDSR is understood while WIP = 1, and shows 0 once the write has completed. -/
theorem test_rdsr_busy :
    leads (step (running .eraseChip 3 (draws [slow] (device writing ready)))) (fun t => t.srByte == some 0x01) = true := by
  decide
theorem test_rdsr_done :
    leads (step (running .eraseChip 3 (draws [clean] (device writing ready)))) (fun t => t.srByte == some 0x00) = true := by
  decide

/-- FRQIO of the second window of `READ 0x1E, 40` (95_test_vectors 2.5 R9) fills BUF[2 .. 34). -/
theorem test_frqio :
    leads (step (running .read 3 (draws [clean] (windowed ready))))
      (fun t => memGet hostDefault t.hostMem 101 == 0x00 && memGet hostDefault t.hostMem 102 == 0xFF
        && memGet hostDefault t.hostMem 133 == 0xFF && memGet hostDefault t.hostMem 134 == 0x00) = true := by decide

/-- PP starts a program: WEL 0, WIP 1 (20_memory R77). -/
theorem test_pp :
    leads (step (running .program 4 (draws [clean] (device armed (windowed ready)))))
      (fun t => t.dev.sr == 0x01 && t.dev.pending == some (.program 0x20 (List.replicate 32 0x00))) = true := by decide

/-- 95_test_vectors 1.3 S2: a device program wraps in its page. -/
theorem test_program_wraps :
    (completeWrite writing).array = [(0x00, 0xA3), (0x01, 0xA4), (0xFE, 0xA1), (0xFF, 0xA2)] ∧
    deviceByte (completeWrite writing) 0x100 = some 0xFF := by decide

/-- 95_test_vectors 2.3 E3, E7, E9: the last unit of each erase. -/
theorem test_ser :
    leads (step (running .eraseSector 3 (draws [clean] (device armed { ready with index := some 2047 }))))
      (fun t => t.dev.sr == 0x01 && t.dev.pending == some (.erase ⟨0x7FF000, 0x1000⟩)) = true := by decide
theorem test_be32k :
    leads (step (running .eraseBlock32K 3 (draws [clean] (device armed { ready with index := some 255 }))))
      (fun t => t.dev.pending == some (.erase ⟨0x7F8000, 0x8000⟩)) = true := by decide
theorem test_be64k :
    leads (step (running .eraseBlock64K 3 (draws [clean] (device armed { ready with index := some 127 }))))
      (fun t => t.dev.pending == some (.erase ⟨0x7F0000, 0x10000⟩)) = true := by decide
theorem test_cer :
    leads (step (running .eraseChip 2 (draws [clean] (device armed ready))))
      (fun t => t.dev.pending == some (.erase ⟨0, 0x800000⟩)) = true := by decide
/-- Without WEL an erase is ignored (20_memory R83). -/
theorem test_cer_not_armed :
    leads (step (running .eraseChip 2 (draws [clean] ready))) (fun t => t.dev == qpiDev) = true := by decide

/-- 95_test_vectors 2.7 S3, S6: bit 0 alone; a bound of 1. -/
theorem test_poll :
    leads (step (running .eraseChip 4 { ready with srByte := some 0xFE, pollCount := some 0 }))
      (fun t => t.seq == .at .eraseChip 5) = true ∧
    leads (step (running .eraseChip 4
        { ready with srByte := some 0x01, pollCount := some 0, cfg := { Config.standard with maxPolls := some 1 } }))
      (fun t => t.result == ⟨4, .timeout .poll⟩) = true := by decide

/-- The poll starts its counter at 0 with its first status read, and a later one leaves it (46_status_poll R250). -/
theorem test_poll_starts :
    leads (step (running .eraseChip 3 (draws [slow] (device writing ready)))) (fun t => t.pollCount == some 0) = true ∧
    leads (step (running .eraseChip 3 (draws [slow] (device writing { ready with pollCount := some 2 }))))
      (fun t => t.pollCount == some 2) = true := by decide

/-- A byte never erased keeps its unspecified content (20_memory R89), and a program of 0x00 clears it (R76, R233). -/
theorem test_power_up_byte :
    deviceByte Device.standard 5 = some (Config.freeContent 0 5) ∧
    deviceByte (completeWrite { Device.standard with pending := some (.program 5 [0x00]) }) 5 = some 0x00 := by
  constructor
  · show some (Config.freeContent 0 5 &&& 0xFF#8) = some (Config.freeContent 0 5)
    rw [show (0xFF#8) = BitVec.allOnes 8 from rfl, BitVec.and_allOnes]
  · show some (Config.freeContent 0 5 &&& 0x00#8) = some 0x00#8
    rw [BitVec.and_zero]

/-- Two ranges together protect the region (20_memory R83): the erase is ignored, WIP stays 0. -/
theorem test_ser_protected :
    leads (step (running .eraseSector 3 (draws [clean] (device halves { ready with index := some 0 }))))
      (fun t => t.dev == halves) = true ∧
    leads (step (running .eraseSector 3 (draws [clean] (device halves { ready with index := some 1 }))))
      (fun t => wip t.dev.sr) = true := by decide

/-- LEN = 0: BUF[0 .. 0) is empty, and no store of the host touches it (70_reset R304). -/
theorem test_store_beside_empty_buffer :
    leads (hostAct (.store 99 [0x01, 0x02, 0x03]) (running .read 1 { ready with buf := some 100, len := some 0 }))
      (fun t => memGet hostDefault t.hostMem 100 == 0x02) = true := by decide

/-- The end of a READ carries BUF[0 .. LEN), however it ends (20_memory R92). -/
theorem test_end_of_refused_read :
    leads (step (asks 0x06 { State.reset with len := some 2, buf := some 100, hostMem := [(101, 0xAB)] }))
      (fun t => t.trace == [.ended ⟨5, .lifecycle .uninit⟩ [0x00, 0xAB]]) = true ∧
    leads (step (running .read 0
        { ready with addr := some 0x7FFFFF, len := some 1, buf := some 100, hostMem := [(100, 0xAB)] }))
      (fun t => t.trace == [.ended ⟨3, .none⟩ [0xAB]]) = true := by decide

/-- A power cycle: single-line mode, the region of the write in progress unspecified (70_reset R295, R309). -/
theorem test_power_cycle :
    leads (hostAct (.powerCycle 0x00 0xE0) (device writing ready))
      (fun t => t.dev.mode == .spi1 && deviceByte t.dev 0x00 == none && deviceByte t.dev 0x02 == some 0xFF
        && t.dev.pending == none) = true := by decide

/-- A word placed by `withFetchWord` runs at the next step, whatever the environment draws. -/
theorem test_fetch_word :
    ∀ w ∈ [0x01, 0x02, 0x03, 0x04, 0x05, 0x06, 0x07, 0x9F, 0x35, 0xC0, 0xEB, 0x20, 0x52, 0xD8, 0xC7],
      leads (step (State.reset.withFetchWord 8 w)) (fun _ => true) = true := by decide

/-! ### Witnesses: concrete states and operands that meet the hypotheses of each statement -/

theorem witness_DecodeOfEncode :
    Config.standard.Valid ∧
    ∀ x ∈ [(Instr.init, Width.w1), (.eraseChip, .w4), (.eraseSector, .w1), (.eraseBlock32K, .w1), (.eraseBlock64K, .w1),
        (.read, .w4), (.program, .w4), (.rdid, .w1), (.wren, .w1), (.wren, .w4), (.qpien, .w1), (.srp, .w4), (.rdsr, .w1),
        (.rdsr, .w4), (.frqio 0x7FFFFF 1, .w4), (.frqio 0 32, .w4), (.pp 0xE0 (List.replicate 32 0xFF), .w4),
        (.pp 0x7FFFFF [0x00], .w4), (.ser 0x7FF000, .w4), (.be32k 0x7F8000, .w4), (.be64k 0x7F0000, .w4), (.cer, .w4)],
      wellFormed Config.standard x.1 = true ∧ widthLegal x.2 x.1 = true := by decide

theorem witness_EncodeOfDecode :
    decode Config.standard (.cmd 0x07) = .ok .program ∧
    decode Config.standard (.desc ⟨.w4, 0xEB, some 0x7FFFFF, some 0x00, 8, [], 1⟩) = .ok (.frqio 0x7FFFFF 1) ∧
    decode Config.standard (.desc ⟨.w1, 0x06, none, none, 0, [], 0⟩) = .ok .wren := by decide

theorem witness_CommandBytesNameTheSevenOperations :
    (0x00 : Byte) = 0 ∧ 8 ≤ (0x08 : Byte).toNat ∧ 8 ≤ (0xFF : Byte).toNat := by decide

theorem witness_StepRunsTheCommandWritten :
    (asks 0x06 ready).cfg.Valid ∧ (asks 0x06 ready).host = .act (.writeCmd 0x06) :: [] ∧
    (asks 0x06 ready).ctrlBusy = false ∧ decodeCmd 0x06 = .ok .read := by decide

theorem witness_StepRunsTheSequencedCommand :
    (running .program 4 (windowed ready)).cfg.Valid ∧ hostWaits (running .program 4 (windowed ready)).host = true ∧
    (running .program 4 (windowed ready)).ctrlBusy = true ∧
    sequencedCommand (running .program 4 (windowed ready)) = some (.pp 0x20 (List.replicate 32 0x00)) ∧
    sequencedCommand (running .eraseChip 3 ready) = some .rdsr := by decide

theorem witness_AcceptedOperationStarts :
    State.reset.ctrlBusy = false ∧ State.reset.lifecycle ≠ .ready ∧ ready.ctrlBusy = false ∧ ready.lifecycle = .ready := by
  decide

theorem witness_WrongLifecycleIsStateError :
    (opOf .init = some .init ∧ ready.ctrlBusy = false ∧ ready.lifecycle = .ready) ∧
    (opOf .program = some .program ∧ State.reset.ctrlBusy = false ∧ State.reset.lifecycle ≠ .ready) ∧
    ({ ready with lifecycle := .initFailed } : State).lifecycle ≠ .ready := by decide

theorem witness_IllegalCommandIsRaised :
    ∀ b ∈ [(0x00 : Byte), 0x08, 0x0F, 0x11, 0xFF],
      (asks b ready).cfg.Valid ∧ (asks b ready).host = .act (.writeCmd b) :: [] ∧ (asks b ready).ctrlBusy = false ∧
      (b.toNat / 16 ≠ 0 ∨ b.toNat % 16 = 0 ∨ 8 ≤ b.toNat % 16) := by decide

theorem witness_HostActionsWhileBusyAreRefused :
    (running .read 1 (ranged ready)).ctrlBusy = true ∧ (running .read 1 (ranged ready)).buf = some 100 ∧
    (running .read 1 (ranged ready)).len = some 40 ∧
    (∃ k, k < [(0x01 : Byte)].length ∧ 100 ≤ 139 + k ∧ 139 + k < 100 + (40 : Word).toNat) ∧
    ∃ k, k < [(0x01 : Byte), 0x02].length ∧ 100 ≤ 99 + k ∧ 99 + k < 100 + (40 : Word).toNat :=
  ⟨by decide, by decide, by decide, ⟨0, by decide⟩, ⟨1, by decide⟩⟩

theorem witness_BadConfigurationIsRefused :
    pageSize % ({ Config.standard with chunk := 48 } : Config).chunk ≠ 0 ∧
    ({ Config.standard with chunk := 0 } : Config).chunk = 0 ∧
    ¬({ Config.standard with opWren := 0x9F } : Config).commandBytes.Nodup := by decide

theorem running_of {s : State} (hv : s.cfg.Valid) (hw : hostWaits s.host = true) (op : Op) (pc : Nat) :
    Running (running op pc s) op pc := ⟨hv, hw, rfl, rfl⟩

/-- One clause each: INDEX, ADDR, LEN, BUF unset where a statement reads it; the host's writes and reads. -/
theorem witness_OperandRegistersAreWrittenAndRead :
    (ready.ctrlBusy = false ∧ ready.buf = none ∧ (windowed ready).addr = some 0x1E ∧ (windowed ready).len = some 40 ∧
      ({ ready with index := some 2047 } : State).index = some 2047 ∧ (windowed ready).buf = some 100 ∧
      State.reset.lifecycle = .uninit ∧ ready.lifecycle = .ready) ∧
    (Running (running .eraseSector 0 ready) .eraseSector 0 ∧ ready.index = none) ∧
    (Running (running .eraseBlock32K 0 ready) .eraseBlock32K 0 ∧ Running (running .eraseBlock64K 0 ready) .eraseBlock64K 0) ∧
    (Running (running .read 0 ready) .read 0 ∧ Running (running .program 0 ready) .program 0 ∧ ready.addr = none) ∧
    (Running (running .read 0 { ready with addr := some 0 }) .read 0 ∧ ready.len = none) ∧
    (Running (running .read 3 { windowed ready with buf := none }) .read 3 ∧
      Running (running .program 4 { windowed ready with buf := none }) .program 4 ∧
      currentWindow (running .read 3 { windowed ready with buf := none }) = some ⟨0x20, 32, 2⟩) :=
  have v : Config.standard.Valid := by decide
  ⟨by decide, ⟨running_of v rfl _ _, rfl⟩, ⟨running_of v rfl _ _, running_of v rfl _ _⟩,
    ⟨running_of v rfl _ _, running_of v rfl _ _, rfl⟩, ⟨running_of v rfl _ _, rfl⟩,
    ⟨running_of v rfl _ _, running_of v rfl _ _, by decide⟩⟩

theorem witness_ResetLeavesTheResetValues : opOf .read = some .read ∧ Op.read ≠ .init := by decide

/-- The hypotheses of the statements of RDID, WREN, QPIEN, SRP and RDSR. -/
theorem witness_bus_commands :
    ((draws [clean] State.reset).txIn = clean :: [] ∧ CleanDraw clean ∧ DeviceListens (draws [clean] State.reset)) ∧
    ((draws [clean] (device armed ready)).txIn = clean :: [] ∧ DeviceListens (draws [clean] (device armed ready)) ∧
      wel armed.sr = true) ∧
    ((draws [slow] (device writing ready)).txIn = slow :: [] ∧ CleanDraw slow ∧
      (device writing ready).busWidth = modeWidth writing.mode ∧ slow.done = false) ∧
    ((draws [clean] ready).busWidth = modeWidth qpiDev.mode ∧ wip qpiDev.sr = false) := by decide

theorem witness_FrqioReadsTheArrayIntoTheBuffer :
    (draws [clean] (running .read 3 (windowed ready))).txIn = clean :: [] ∧ CleanDraw clean ∧
    DeviceListens (draws [clean] (running .read 3 (windowed ready))) ∧ dummyAgrees qpiDev = true ∧
    (running .read 3 (windowed ready)).seq = .at .read 3 ∧
    currentWindow (running .read 3 (windowed ready)) = some ⟨0x20, 32, 2⟩ ∧
    (running .read 3 (windowed ready)).buf = some 100 ∧ memWf hostDefault ready.hostMem ∧
    (∀ j, j < 32 → deviceByte qpiDev ((0x20 + j) % capacity) = some 0xFF) ∧ 0x20 < capacity := by decide

theorem witness_PpStartsAProgram :
    (draws [clean] (device armed ready)).txIn = clean :: [] ∧ CleanDraw clean ∧
    DeviceListens (draws [clean] (device armed ready)) ∧ armed.pending = none ∧ wel armed.sr = true ∧
    protectedProgram armed 0x7FFFFF [0x00] = false ∧ (0x7FFFFF : BusAddr).toNat < capacity ∧
    [(0x00 : Byte)].length ≤ pageSize := by decide

/-- A device whose protect bits cover only the first block. -/
def guarded : Device :=
  { armed with sr := 0x06, chip := { Chip.standard with protMap := [⟨0b0001#4, ⟨0, 0x10000⟩⟩] } }

theorem witness_EraseCommandsStartAnErase :
    (draws [clean] (device guarded ready)).txIn = clean :: [] ∧ CleanDraw clean ∧
    DeviceListens (draws [clean] (device guarded ready)) ∧ guarded.pending = none ∧ wel guarded.sr = true ∧
    (0x7FFFFF : BusAddr).toNat < capacity ∧
    protectedRange guarded ⟨0x7FFFFF - 0x7FFFFF % 4096, 4096⟩ = false ∧
    protectedRange guarded ⟨0x7FFFFF - 0x7FFFFF % 32768, 32768⟩ = false ∧
    protectedRange guarded ⟨0x7FFFFF - 0x7FFFFF % 65536, 65536⟩ = false ∧
    protectedRange guarded ⟨0, 0x800000⟩ = false := by decide

theorem witness_CompletedProgramAndsInsideThePage :
    memWf arrayDefault writing.array ∧ writing.pending = some (.program 0xFE [0xA1, 0xA2, 0xA3, 0xA4]) ∧
    [(0xA1 : Byte), 0xA2, 0xA3, 0xA4].length ≤ 256 ∧
    (∀ i, i < 4 → protectedAt writing (0xFE - 0xFE % 256 + (0xFE % 256 + i) % 256) = false) := by decide

theorem witness_CompletedEraseSetsTheRegion :
    ({ guarded with pending := some (.erase ⟨0, 0x800000⟩) } : Device).pending = some (.erase ⟨0, 0x800000⟩) ∧
    protectedAt { guarded with pending := some (.erase ⟨0, 0x800000⟩) } 0x10000 = false ∧
    0 ≤ 0x10000 ∧ 0x10000 < 0 + 0x800000 := by decide

theorem witness_UnacceptedWritesChangeNothing :
    ((draws [slow] ready).txIn = slow :: [] ∧ CleanDraw slow ∧ ready.busWidth = modeWidth ready.dev.mode ∧
      slow.done = false ∧ (0x7FFFFF : BusAddr).toNat < capacity ∧ [(0x00 : Byte)].length ≤ pageSize ∧
      wip ready.dev.sr = false ∧ wel ready.dev.sr = false) ∧
    ((device writing ready).busWidth = modeWidth writing.mode ∧ wip writing.sr = true ∧
      ready.afterAbort = false ∧ slow.ignores = true) ∧
    ((draws [slow] (device writing ready)).txIn = slow :: [] ∧ slow.done = false) ∧
    (wip halves.sr = false ∧ wel halves.sr = true ∧ protectedAt halves (pageWrap 0x000FFF 0) = true) ∧
    ∀ x, (0x000000 : BusAddr).toNat / 4096 = x / 4096 → protectedAt halves x = true :=
  ⟨by decide, by decide, by decide, by decide, fun x hx => by
    have hb : x < 0x1000 := by simp at hx; omega
    have hr : protRanges halves = [⟨0, 0x800⟩, ⟨0x800, 0x800⟩] := by decide
    simp only [protectedAt, hr, List.any_cons, List.any_nil, inRange, Bool.or_false, Bool.or_eq_true,
      Bool.and_eq_true, decide_eq_true_eq]
    omega⟩

theorem witness_ProtectedBytesAreNotWritten :
    memWf arrayDefault guarded.array ∧ protectedAt guarded 0 = true ∧ protectedAt guarded 0xFFFF = true ∧
    protectedAt guarded 0x10000 = false := by decide

theorem witness_OnlyErasesSetBits :
    memWf arrayDefault writing.array ∧ (∀ g, writing.pending ≠ some (.erase g)) ∧ writing.pending ≠ some .unknown ∧
    (opOf .rdsr = none → DeviceHeeds (draws [clean] (device writing ready)) .rdsr) ∧
    leads (exec .rdsr (draws [clean] (device writing ready))) (fun t => deviceByte t.dev 0x00 == some 0xA3) = true :=
  ⟨by decide, nofun, nofun, fun _ => by decide, by decide⟩

theorem witness_TransportErrorEndsTheOperation :
    opOf (.pp 0x20 [0x01]) = none ∧ wellFormed Config.standard (.pp 0x20 [0x01]) = true ∧ Config.standard.Valid ∧
    (draws [failing] (running .init 1 State.reset)).txIn = failing :: [] ∧ failing.fail = some (7, .lost) ∧
    runningOp (running .init 1 State.reset) = some .init ∧ runningOp (running .program 4 ready) ≠ some .init := by decide

theorem witness_FailedTransactionWasLostCarriedOutOrTorn :
    opOf .wren = none ∧ (draws [failing] ready).txIn = failing :: [] ∧ failing.fail = some (7, .lost) ∧
    leads (exec .wren (draws [failing] ready)) (fun t => t.dev.sr == 0x00) = true ∧
    leads (exec .wren (draws [{ failing with fail := some (7, .applied) }] ready)) (fun t => t.dev.sr == 0x02) = true ∧
    torn.fail = some (7, .torn) ∧ (draws [torn] (device armed ready)).txIn = torn :: [] ∧
    settle torn.done armed = armed ∧ wip armed.sr = false ∧ ready.busWidth = modeWidth armed.mode ∧
    armed.pending = none ∧ wel armed.sr = true ∧ protectedProgram armed 0x0000FE [0x00, 0x00, 0x00] = false ∧
    (∀ j, j < 3 → pageWrap 0xFE j ≠ 0x01) ∧ protectedRange armed ⟨0x7FF000 - 0x7FF000 % 4096, 4096⟩ = false ∧
    protectedRange armed ⟨0, 0x800000⟩ = false ∧ wip writing.sr = true ∧
    ready.busWidth ≠ modeWidth { armed with mode := .spi1 }.mode ∧
    leads (exec .wren (draws [{ torn with fail := none }] ready)) (fun t => t.dev.pending == none) = true := by
  decide

theorem witness_WrongWidthAndPowerCycleLeaveTheDeviceOpen :
    (pendingAt writing.pending 0x00 = true ∧ pendingAt writing.pending 0x02 = false) ∧
    opOf .rdid = none ∧ wellFormed Config.standard .rdid = true ∧ Config.standard.Valid ∧
    (draws [clean] { ready with busWidth := .w1 }).txIn = clean :: [] ∧ clean.fail = none ∧
    ({ ready with busWidth := .w1 } : State).busWidth ≠ modeWidth ready.dev.mode ∧ wip clean.after.sr = false ∧
    wip (0x01 : Byte) = true ∧ 0 < capacity ∧
    (settle clean.done ready.dev).doubt.any (fun q => inRange q 0) = false := by decide

theorem witness_WritesPastTheArrayFault :
    capacity ≤ (0x800000 : BusAddr).toNat ∧ capacity ≤ (0xFFFFFF : BusAddr).toNat ∧
    (0x7FFFFF : BusAddr).toNat < capacity ∧ pageSize < (List.replicate 257 (0x00 : Byte)).length :=
  ⟨by decide, by decide, by decide, by rw [List.length_replicate]; decide⟩

/-- The hypotheses of the frames of the bus commands. -/
theorem witness_bus_frames :
    opOf (.ser 0x7FF000) = none ∧ Config.standard.Valid ∧ wellFormed Config.standard (.ser 0x7FF000) = true ∧
    (draws [clean] (device armed ready)).txIn = clean :: [] ∧ clean.fail = none ∧ clean.ignores = true ∧
    DeviceHeeds (draws [clean] (device armed ready)) (.ser 0x7FF000) ∧
    DeviceHeeds (draws [slow] (device writing ready)) (.ser 0x7FF000) ∧
    memWf arrayDefault armed.array ∧ memWf hostDefault ready.hostMem ∧
    leads (exec (.ser 0x7FF000) (draws [clean] (device armed ready))) (fun t => wip t.dev.sr) = true := by decide

theorem witness_BusCommandsKeepTheRestOfTheArray :
    opOf .rdsr = none ∧ memWf arrayDefault writing.array ∧
    DeviceHeeds (draws [clean] (device writing ready)) .rdsr ∧ writing.pending ≠ some .unknown ∧
    leads (exec .rdsr (draws [clean] (device writing ready))) (fun t => t.dev.pending == none) = true ∧
    (∀ j, j < 4 → pageWrap 0xFE j ≠ 0x100) ∧
    ({ writing with pending := some (.erase ⟨0, 0x1000⟩) } : Device).pending = some (.erase ⟨0, 0x1000⟩) ∧
    0 + 0x1000 ≤ 0x1000 := by decide

theorem witness_HostMemoryFrame :
    opOf (.frqio 0x20 32) = none ∧ memWf hostDefault ready.hostMem ∧
    runningOp (running .read 3 (windowed ready)) = some .read ∧
    currentWindow (running .read 3 (windowed ready)) = some ⟨0x20, 32, 2⟩ ∧
    (windowed ready).buf = some 100 ∧ (windowed ready).len = some 40 ∧ 2 + 32 ≤ (40 : Word).toNat ∧
    leads (exec (.frqio 0x20 32) (draws [clean] (running .read 3 (windowed ready))))
      (fun t => t.hostMem.length == 32) = true ∧
    runningOp (running .program 4 (windowed ready)) ≠ some .read := by decide

theorem witness_RaiseEndsTheOperation :
    runningOp (running .init 1 State.reset) = some .init ∧ runningOp ready ≠ some .init := by decide

theorem witness_FailedReadKeepsTheWindowsBefore :
    (draws [failing] (running .read 3 (windowed ready))).txIn = failing :: [] ∧ failing.fail = some (7, .lost) ∧
    (running .read 3 (windowed ready)).seq = .at .read 3 ∧
    currentWindow (running .read 3 (windowed ready)) = some ⟨0x20, 32, 2⟩ ∧ (windowed ready).buf = some 100 ∧
    (windowed ready).len = some 40 ∧ memWf hostDefault ready.hostMem ∧
    Running (running .read 2 { windowed ready with
      busyIn := [true], cfg := { Config.standard with maxIdleQueries := some 1 } }) .read 2 ∧
    1 ≤ (windowed ready).idleCount.getD 0 + 1 := by decide

/-- Both clauses of the bounds check, on both sides of the boundary. -/
theorem witness_BoundsCheckIsExact :
    (asks 0x06 (ranged ready)).cfg.Valid ∧ (asks 0x06 (ranged ready)).host = .act (.writeCmd 0x06) :: [] ∧
    hostWaits [] = true ∧ (asks 0x06 (ranged ready)).ctrlBusy = false ∧ (asks 0x06 (ranged ready)).lifecycle = .ready ∧
    (asks 0x06 (ranged ready)).cursor = none ∧ (asks 0x06 (ranged ready)).addr = some 0x1E ∧
    (asks 0x06 (ranged ready)).len = some 40 ∧ (0x7FFFFE : Word).toNat + (1 : Word).toNat < 0x800000 ∧
    0x800000 ≤ (0x7FFFFF : Word).toNat + (1 : Word).toNat ∧ 0x800000 ≤ (0xFFFFFFFF : Word).toNat + (2 : Word).toNat := by
  decide

theorem witness_IndexCheckIsExact :
    ∀ x ∈ [((0x03 : Byte), (2047 : Word), (2047 : Nat)), (0x04, 255, 255), (0x05, 127, 127), (0x03, 2048, 2047)],
      (asks x.1 { ready with index := some x.2.1 }).cfg.Valid ∧
      (asks x.1 { ready with index := some x.2.1 }).host = .act (.writeCmd x.1) :: [] ∧
      (asks x.1 { ready with index := some x.2.1 }).ctrlBusy = false ∧
      (asks x.1 { ready with index := some x.2.1 }).lifecycle = .ready ∧
      (asks x.1 { ready with index := some x.2.1 }).cursor = none ∧
      (asks x.1 { ready with index := some x.2.1 }).index = some x.2.1 ∧
      (x.2.1.toNat ≤ x.2.2 ∨ x.2.2 < x.2.1.toNat) := by decide

theorem witness_EraseAddressIsTheShiftedIndex :
    ({ ready with index := some 2047 } : State).index = some 2047 ∧ (2047 : Word).toNat ≤ 2047 ∧ (255 : Word).toNat ≤ 255 ∧
    (127 : Word).toNat ≤ 127 ∧ (0 : Word).toNat ≤ 127 := by decide

/-- Both clauses of the identity gate: the bytes expected, and one that differs in the last byte (95_test_vectors I3). -/
theorem witness_IdentityGate :
    Running (running .init 3 { State.reset with idBytes := some ⟨0x9D, 0x60, 0x16⟩ }) .init 3 ∧
    (running .init 3 { State.reset with idBytes := some ⟨0x9D, 0x60, 0x16⟩ }).cursor = none ∧
    (0x9D : Byte) = Config.standard.expectedId.manufacturer ∧ (0x60 : Byte) = Config.standard.expectedId.device ∧
    (0x17 : Byte) = Config.standard.expectedId.capacity ∧ (0x16 : Byte) ≠ Config.standard.expectedId.capacity := by decide

theorem witness_SetWidthSwitchesTheBus :
    Running (running .init 0 State.reset) .init 0 ∧ (ruleOf .init)[0]? = some (.setWidth .w1) ∧
    Running (running .init 6 State.reset) .init 6 ∧ (ruleOf .init)[6]? = some (.setWidth .w4) := by decide

/-- Both clauses of WaitIdle: one busy answer and an idle one; two busy answers at a bound of 2, and with no bound. -/
theorem witness_WaitIdleIsBoundedOnlyByItsParameter :
    Running (running .read 2 { ready with busyIn := [true, false] }) .read 2 ∧
    (ruleOf .read)[2]? = some .waitIdle ∧ ready.idleCount = none ∧ (∀ k, ready.cfg.maxIdleQueries = some k → 1 < k) ∧
    [true, false] = List.replicate 1 true ++ false :: [] ∧ [true, true] = List.replicate (1 + 1) true ++ [] ∧
    ({ Config.standard with maxIdleQueries := some 2 } : Config).maxIdleQueries = some (1 + 1) ∧
    (∀ k, ({ Config.standard with maxIdleQueries := some 2 } : Config).maxIdleQueries = some k → 1 < k) ∧
    ready.cfg.maxIdleQueries ≠ some (1 + 1) :=
  ⟨by decide, by decide, rfl, nofun, rfl, rfl, rfl, fun k h => by cases h; decide, by decide⟩

theorem witness_PollTestsBitZeroAlone :
    Running (running .eraseChip 4 { ready with srByte := some 0xFE, pollCount := some 0 }) .eraseChip (3 + 1) ∧
    (ruleOf .eraseChip)[3 + 1]? = some .pollTest ∧ (0xFE : Byte).getLsbD 0 = false ∧ (0x03 : Byte).getLsbD 0 = true ∧
    (∀ k, ready.cfg.maxPolls = some k → 0 + 1 < k) ∧
    ({ Config.standard with maxPolls := some 1 } : Config).maxPolls = some 1 ∧ 1 ≤ 0 + 1 :=
  ⟨by decide, by decide, by decide, by decide, nofun, rfl, by decide⟩

theorem witness_UnboundedPollNeverEnds :
    Running (running .eraseChip 3 (draws [answers [0x01], answers [0x03]] ready)) .eraseChip 3 ∧
    ready.cfg.maxPolls = none ∧ (ruleOf .eraseChip)[3]? = some (.issue .rdsr) ∧
    (ruleOf .eraseChip)[3 + 1]? = some .pollTest ∧
    (∀ d ∈ [answers [0x01], answers [0x03]], d.fail = none ∧ ∃ b : Byte, d.answer = some [b] ∧ b.getLsbD 0 = true) :=
  ⟨by decide, rfl, rfl, rfl, fun d hd => by
    simp only [List.mem_cons, List.not_mem_nil, or_false] at hd
    rcases hd with rfl | rfl
    · exact ⟨rfl, 0x01, rfl, by decide⟩
    · exact ⟨rfl, 0x03, rfl, by decide⟩⟩

theorem witness_chunker :
    0 < 32 ∧ 256 % 32 = 0 ∧ (chunks 32 0x1E 40)[0]? = some ⟨0x1E, 2, 0⟩ ∧ (chunks 32 0x1E 40)[1]? = some ⟨0x20, 32, 2⟩ ∧
    1 + 1 < (chunks 32 0x1E 40).length ∧ ⟨0x40, 6, 34⟩ ∈ chunks 32 0x1E 40 ∧ 0 < 40 := by decide

theorem inv_ready : Inv ready := by
  refine ⟨?_, ⟨by decide, by decide, trivial, by decide⟩, by decide, by decide⟩
  exact ⟨rfl, rfl, rfl, rfl, rfl, rfl, fun _ => rfl⟩

theorem inv_reset : Inv State.reset := by
  refine ⟨?_, ⟨by decide, by decide, trivial, by decide⟩, by decide, by decide⟩
  exact ⟨rfl, rfl, rfl, rfl, rfl, rfl, nofun⟩

theorem inv_inputs {s : State} (h : Inv s) (e : List HostEvent) (b : List Bool) (d : List TxDraw) :
    Inv { s with host := e, busyIn := b, txIn := d } := by
  obtain ⟨h1, h2, h3, h4⟩ := h
  refine ⟨?_, h2, h3, h4⟩
  unfold SeqInv at h1 ⊢
  rcases hs : s.seq with _ | ⟨op, pc⟩
  · rw [hs] at h1; exact h1
  · rw [hs] at h1; cases op <;> exact h1

/-- States that meet the invariant, and steps from them: an INIT that starts, and an erase whose INDEX is unset. -/
theorem witness_StepKeepsInv :
    Inv { State.reset with host := [.act (.writeCmd 0x01)], busyIn := [], txIn := [] } ∧
    leads (step { State.reset with host := [.act (.writeCmd 0x01)], busyIn := [], txIn := [] })
      (fun t => t.seq == .at .init 0) = true := ⟨inv_inputs inv_reset _ _ _, by decide⟩

theorem witness_OnlyUnsetOperandsFault :
    Inv (running .eraseSector 0 ready) ∧ step (running .eraseSector 0 ready) = .fault (.unsetOperand .index) := by
  refine ⟨⟨?_, ⟨by decide, by decide, trivial, by decide⟩, by decide, by decide⟩, rfl⟩
  exact ⟨rfl, by decide, rfl, rfl, rfl, nofun, nofun⟩

theorem witness_StepEmitsOnlyTheElevenCommands :
    Inv (running .eraseChip 0 (draws [clean] ready)) ∧ TraceDecodes Config.standard [] ∧
    leads (step (running .eraseChip 0 (draws [clean] ready))) (fun t => t.trace.length == 1) = true := by
  refine ⟨⟨?_, ⟨by decide, by decide, trivial, by decide⟩, by decide, by decide⟩, nofun, by decide⟩
  exact ⟨rfl, by decide, rfl, rfl, rfl, nofun⟩

theorem witness_OnlyInitWritesLifecycleAndWidth :
    hostWaits (running .eraseChip 0 (draws [clean] ready)).host = true ∧
    leads (step (running .eraseChip 0 (draws [clean] ready))) (fun t => t.ctrlBusy) = true ∧
    runningOp (running .eraseChip 0 (draws [clean] ready)) ≠ some .init ∧
    (running .eraseChip 0 (draws [clean] ready)).ctrlBusy = true ∧
    (hostWaits ready.host = true ∧ Inv ready ∧ leads (step ready) (fun t => t.ctrlBusy == ready.ctrlBusy) = true) ∧
    leads (step (running .eraseChip 0 (draws [failing] ready)))
      (fun t => t.afterAbort && t.seq == .idle && t.result.code == 1) = true :=
  ⟨by decide, by decide, by decide, by decide, ⟨by decide, inv_ready, by decide⟩, by decide⟩

/-- 95_test_vectors 2.2 I2, with one busy answer: an INIT with one WIP = 1 status before the last. -/
def initAsk : State :=
  { State.reset with
    host := [.act (.writeCmd 0x01)], busyIn := List.replicate 1 true ++ false :: [],
    txIn := [answers [0x9D, 0x60, 0x17], clean, clean, clean, clean] ++ [answers [0x03]] ++ answers [0x00] :: [] }

theorem witness_InitHasTheSpecifiedTrace :
    Inv initAsk ∧ initAsk.cfg.Valid ∧ initAsk.ctrlBusy = false ∧ initAsk.lifecycle ≠ .ready ∧
    initAsk.host = .act (.writeCmd 0x01) :: [] ∧ hostWaits [] = true ∧
    (∀ k, initAsk.cfg.maxIdleQueries = some k → 1 < k) ∧
    (∀ d ∈ [answers [0x9D, 0x60, 0x17], clean, clean, clean, clean] ++ [answers [0x03]] ++ [answers [0x00]],
      d.fail = none) ∧
    (answers [0x9D, 0x60, 0x17]).answer
      = some [initAsk.cfg.expectedId.manufacturer, initAsk.cfg.expectedId.device, initAsk.cfg.expectedId.capacity] ∧
    [answers [0x03]].map (fun d => d.answer) = [(0x03 : Byte)].map (fun x => some [x]) ∧
    (∀ x ∈ [(0x03 : Byte)], x.getLsbD 0 = true) ∧ (answers [0x00]).answer = some [0x00] ∧
    (0x00 : Byte).getLsbD 0 = false ∧ (∀ k, initAsk.cfg.maxPolls = some k → 1 < k) :=
  ⟨inv_inputs inv_reset _ _ _, by decide, rfl, by decide, rfl, rfl, nofun, by decide, rfl, rfl, by decide, rfl, by decide,
    nofun⟩

theorem witness_InitReadiesTheDevice :
    Inv { State.reset with
      host := [.act (.writeCmd 0x01)], busyIn := List.replicate 0 true ++ false :: [],
      txIn := [clean, clean, clean, clean, { clean with srpSetsWip := true }] ++ [slow] ++ clean :: [] } ∧
    State.reset.dev.mode = .spi1 ∧ wip State.reset.dev.sr = false ∧
    State.reset.dev.chip.ident = State.reset.cfg.expectedId ∧
    (∀ d ∈ [clean, clean, clean, clean, { clean with srpSetsWip := true }] ++ [slow] ++ [clean], CleanDraw d) ∧
    ({ clean with srpSetsWip := true } : TxDraw).srpSetsWip = true ∧ (∀ d ∈ [slow], d.done = false) ∧ clean.done = true ∧
    (∀ k, State.reset.cfg.maxPolls = some k → [slow].length < k) :=
  ⟨inv_inputs inv_reset _ _ _, rfl, by decide, rfl, by decide, rfl, by decide, rfl, nofun⟩

/-- A ready controller asked for an erase, with one busy answer and one WIP = 1 status. -/
def eraseAsk (code : Byte) (n : Word) : State :=
  { ready with
    index := some n, host := [.act (.writeCmd code)], busyIn := List.replicate 1 true ++ false :: [],
    txIn := [clean, clean] ++ [slow] ++ clean :: [] }

theorem witness_EraseErasesItsRegion :
    (∀ x ∈ [((0x02 : Byte), (0 : Word)), (0x03, 2047), (0x04, 255), (0x05, 127)],
      Inv (eraseAsk x.1 x.2) ∧ (eraseAsk x.1 x.2).cfg.Valid ∧ (eraseAsk x.1 x.2).ctrlBusy = false ∧
      (eraseAsk x.1 x.2).lifecycle = .ready ∧ (eraseAsk x.1 x.2).index = some x.2 ∧
      (eraseAsk x.1 x.2).host = .act (.writeCmd x.1) :: []) ∧
    (2047 : Word).toNat ≤ 2047 ∧ (255 : Word).toNat ≤ 255 ∧ (127 : Word).toNat ≤ 127 ∧
    qpiDev.mode = .qpi4 ∧ wip qpiDev.sr = false ∧ (∀ x, 0 ≤ x → x < 0 + 0x800000 → protectedAt qpiDev x = false) ∧
    (∀ k, ready.cfg.maxIdleQueries = some k → 1 < k) ∧ (∀ d ∈ [clean, clean] ++ [slow] ++ [clean], CleanDraw d) ∧
    (∀ d ∈ [slow], d.done = false) ∧ clean.done = true ∧ (∀ k, ready.cfg.maxPolls = some k → [slow].length < k) :=
  ⟨fun x _ => ⟨⟨⟨rfl, rfl, rfl, rfl, rfl, rfl, fun _ => rfl⟩, inv_ready.device, inv_ready.hostForm, inv_ready.resultOk⟩,
      (by decide : Config.standard.Valid), rfl, rfl, rfl, rfl⟩,
    by decide, by decide, by decide, rfl, by decide, fun _ _ _ => rfl, nofun, by decide, by decide, rfl, nofun⟩

/-- A ready controller asked for a READ or PROGRAM of 40 bytes at 0x1E (three windows), and of none at the last byte. -/
def rangeAsk (code : Byte) (a n : Word) (ds : List TxDraw) : State :=
  { ready with
    addr := some a, len := some n, buf := some 100, host := [.act (.writeCmd code)],
    busyIn := List.replicate (chunks 32 a.toNat n.toNat).length false ++ [], txIn := ds ++ [] }

theorem inv_rangeAsk (code : Byte) (a n : Word) (ds : List TxDraw) : Inv (rangeAsk code a n ds) :=
  ⟨⟨rfl, rfl, rfl, rfl, rfl, rfl, fun _ => rfl⟩, inv_ready.device, inv_ready.hostForm, inv_ready.resultOk⟩

theorem witness_ReadFillsTheBuffer :
    Inv (rangeAsk 0x06 0x1E 40 [clean, clean, clean]) ∧ (rangeAsk 0x06 0x1E 40 [clean, clean, clean]).cfg.Valid ∧
    (0x1E : Word).toNat + (40 : Word).toNat < 0x800000 ∧ (0x7FFFFF : Word).toNat + (0 : Word).toNat < 0x800000 ∧
    qpiDev.mode = .qpi4 ∧ wip qpiDev.sr = false ∧ dummyAgrees qpiDev = true ∧
    (∀ i, i < (40 : Word).toNat → deviceByte qpiDev ((0x1E : Word).toNat + i) = some 0xFF) ∧
    [clean, clean, clean].length = (chunks 32 (0x1E : Word).toNat (40 : Word).toNat).length ∧
    ([] : List TxDraw).length = (chunks 32 (0x7FFFFF : Word).toNat (0 : Word).toNat).length ∧
    (∀ d ∈ [clean, clean, clean], CleanDraw d) :=
  ⟨inv_rangeAsk .., by decide, by decide, by decide, rfl, by decide, by decide, by decide, by decide, by decide,
    by decide⟩

theorem witness_ProgramAndsTheData :
    Inv (rangeAsk 0x07 0x1E 40 (List.replicate 9 clean)) ∧
    (rangeAsk 0x07 0x1E 40 (List.replicate 9 clean)).cfg.Valid ∧ qpiDev.mode = .qpi4 ∧ wip qpiDev.sr = false ∧
    (∀ i, i < (40 : Word).toNat → protectedAt qpiDev ((0x1E : Word).toNat + i) = false) ∧
    (∀ i, i < (40 : Word).toNat → deviceByte qpiDev ((0x1E : Word).toNat + i) = some 0xFF) ∧
    (List.replicate 9 clean).length = 3 * (chunks 32 (0x1E : Word).toNat (40 : Word).toNat).length ∧
    (∀ d ∈ List.replicate 9 clean, CleanDraw d ∧ d.done = true) :=
  ⟨inv_rangeAsk .., by decide, rfl, by decide, by decide, by decide, by decide, by decide⟩

end Sys2Proof.Tests
end

section
/-! PROOFS. The bus commands that read the device or set its latch (20_memory R71-R75), when the device understands
them and the transport completes them. -/
namespace Sys2Proof.Machine
open Sys2Proof

/-! ### A bus command that the device understands -/

/-- SRP answers nothing, whatever it draws (20_memory R80). -/
theorem devSrp_answer (r : Byte) (d : TxDraw) (dev : Device) : (devSrp r d dev).2 = [] := by
  unfold devSrp; split <;> rfl

/-- A bus command answers exactly the bytes its descriptor receives (30_encoding R110, 20_memory R71-R81). -/
theorem busEffect_answer_length {i : Instr} (hi : opOf i = none) (c : Config) (w : Width) (d : TxDraw)
    (dev : Device) : (busEffect c i d dev).2.length = (descriptor c w i).rx := by
  cases i with
  | init | eraseChip | eraseSector | eraseBlock32K | eraseBlock64K | read | program => simp [opOf] at hi
  | frqio a n => simp [busEffect, devFrqio, descriptor, encode]
  | srp => exact congrArg List.length (devSrp_answer c.readParamValue d dev)
  | rdid | wren | qpien | rdsr | pp | ser | be32k | be64k | cer => rfl

/-- The transaction finds the device as it was: no write in progress, or one that has not completed. -/
theorem settle_unchanged {done : Bool} {dev : Device} (h : done = false ∨ wip dev.sr = false) :
    settle done dev = dev := by
  rcases h with rfl | h
  · exact settle_false dev
  · exact settle_of_idle h done

/-- A bus command that the transport completes and the device understands: the device takes the command's effect, its
answer goes to the command's register, SEQ advances, and nothing else changes (40_bus_primitives R140). -/
theorem exec_bus_understood {s : State} (i : Instr) {d : TxDraw} {r : List TxDraw} (hi : opOf i = none)
    (hin : busInside i) (htx : s.txIn = d :: r) (hd : CleanDraw d) (hw : s.busWidth = modeWidth s.dev.mode)
    (hb : busAnytime i = true ∨ wip s.dev.sr = false) (hdone : d.done = false ∨ wip s.dev.sr = false) :
    exec i s = .next (advance (busReceiver i (busEffect s.cfg i d s.dev).2
      { s with
        txIn := r, dev := (busEffect s.cfg i d s.dev).1,
        trace := s.trace ++
          [.tx (descriptor s.cfg s.busWidth i) (.ok (busEffect s.cfg i d s.dev).2)] })) := by
  obtain ⟨hfail, hans⟩ := hd
  have hrecv : receive d (descriptor s.cfg s.busWidth i).w (busAnytime i) s.afterAbort (busEffect s.cfg i) s.dev
      = busEffect s.cfg i d s.dev :=
    receive_understood d _ (by rw [descriptor_w, hw]) hb
  have hfit : fitBytes (descriptor s.cfg s.busWidth i).rx (busEffect s.cfg i d s.dev).2
      = (busEffect s.cfg i d s.dev).2 := by
    rw [← busEffect_answer_length hi s.cfg s.busWidth d s.dev, fitBytes_of_length]
  rw [exec_bus hi hin, transact_ok htx hfail]
  simp only [settle_unchanged hdone, hrecv, hans, Option.getD_none, hfit]

/-! ### What FRQIO answers, and where a READ receives it -/

/-- FRQIO answers the bytes of the array where they are known and the dummy counts agree (20_memory R74, R75). -/
theorem devFrqio_known {dev : Device} {a n : Nat} {v : Nat → Byte} (d : TxDraw) (hdummy : dummyAgrees dev = true)
    (hv : ∀ j, j < n → deviceByte dev ((a + j) % capacity) = some (v j)) :
    devFrqio a n d dev = (dev, (List.range n).map v) := by
  refine Prod.ext rfl (List.map_congr_left fun j hj => ?_)
  rw [if_pos hdummy, hv j (List.mem_range.mp hj), Option.getD_some]

/-- A window of a running READ is received into BUF at its offset (44_read R218). -/
theorem recvWindow_of_read {s : State} {w : Window} {b : Nat} (hop : runningOp s = some .read)
    (hwin : currentWindow s = some w) (hbuf : s.buf = some b) (rx : List Byte) :
    recvWindow rx s = { s with hostMem := memWrite hostDefault s.hostMem (b + w.off) rx } := by
  simp only [recvWindow, hop, hwin, hbuf]

/-- Bytes given by index, read back where they were written. -/
theorem memGet_memWrite_range {d : Byte} {m : Mem} (hm : memWf d m) (a n : Nat) (v : Nat → Byte) {j : Nat}
    (hj : j < n) : memGet d (memWrite d m a ((List.range n).map v)) (a + j) = v j := by
  rw [memGet_memWrite hm, if_pos (by simp; omega)]
  simp [hj]

/-- Bytes outside those written stay. -/
theorem memGet_memWrite_outside {d : Byte} {m : Mem} (hm : memWf d m) {a x : Nat} {bs : List Byte}
    (hx : x < a ∨ a + bs.length ≤ x) : memGet d (memWrite d m a bs) x = memGet d m x := by
  rw [memGet_memWrite hm, if_neg (by omega)]

/-! ### The obligations -/

/-- Settles O19: the answer is the array's bytes (`devFrqio_known`), and one write of the host's memory puts them in
the window. -/
theorem frqioReadsTheArrayIntoTheBuffer : Obligations.FrqioReadsTheArrayIntoTheBuffer := by
  intro s d r pc w b v htx hd hlisten hdummy hseq hwin hbuf hm hv hcap
  obtain ⟨hw, hidle⟩ := hlisten
  have haddr : (BitVec.ofNat 24 w.addr).toNat = w.addr := by
    rw [BitVec.toNat_ofNat, Nat.mod_eq_of_lt (Nat.lt_trans hcap (by decide))]
  have hop : runningOp s = some .read := by rw [runningOp, hseq]
  have heff : busEffect s.cfg (.frqio (BitVec.ofNat 24 w.addr) w.len) d s.dev
      = (s.dev, (List.range w.len).map v) := by
    rw [busEffect, haddr, devFrqio_known d hdummy hv]
  refine ⟨memWrite hostDefault s.hostMem (b + w.off) ((List.range w.len).map v), ?_, memWf_memWrite hm _ _,
    fun j hj => memGet_memWrite_range hm _ _ v hj,
    fun x hx => memGet_memWrite_outside hm (by simpa using hx)⟩
  rw [exec_bus_understood (.frqio _ _) rfl trivial htx hd hw (.inr hidle) (.inr hidle), heff, busReceiver,
    recvWindow_of_read (w := w) (b := b)]
  exacts [rfl, hop, hwin, hbuf]

/-- Settles O14: the three bytes answered are the identity's, and ID_BYTES reads them back in that order. -/
theorem rdidReturnsTheIdentity : Obligations.RdidReturnsTheIdentity := by
  intro s d r htx hd ⟨hw, hidle⟩
  rw [exec_bus_understood .rdid rfl trivial htx hd hw (.inr hidle) (.inr hidle)]
  rfl

/-- Settles O15: the status register after WREN is `setWel` of the one before. -/
theorem wrenSetsTheWriteEnableLatch : Obligations.WrenSetsTheWriteEnableLatch := by
  intro s d r htx hd ⟨hw, hidle⟩
  refine ⟨setWel s.dev.sr, ?_, wel_setWel _, fun k hk => by simp [setWel_getLsbD, hk]⟩
  rw [exec_bus_understood .wren rfl trivial htx hd hw (.inr hidle) (.inr hidle)]
  rfl

/-- Settles O18: RDSR is the command understood at any time, so WIP = 1 does not stop it; the mark is `recvStatus`'s. -/
theorem rdsrReturnsTheStatusByte : Obligations.RdsrReturnsTheStatusByte := by
  intro s d r htx hd hw hdone
  refine ⟨s.afterAbort && wip s.dev.sr, ?_⟩
  rw [exec_bus_understood .rdsr rfl trivial htx hd hw (.inl rfl) hdone]
  rfl

end Sys2Proof.Machine
end

section
/-! PROOFS. The CMD bytes (30_encoding R101, R103): a byte that decodes is the code of the operation it decodes to. -/
namespace Sys2Proof

/-- With CMD[7:4] = 0 the byte is its OP field (10_state R22). -/
theorem eq_setWidth_cmdOp {b : Byte} (h : cmdReserved b = 0) : b = (cmdOp b).setWidth 8 := by
  have hr : b.toNat / 16 % 16 = 0 := by simpa [cmdReserved, Nat.shiftRight_eq_div_pow] using congrArg BitVec.toNat h
  apply BitVec.eq_of_toNat_eq
  simp only [cmdOp, BitVec.toNat_setWidth, BitVec.extractLsb'_toNat, Nat.shiftRight_zero]
  omega

/-- A CMD byte that decodes is the code of the operation it decodes to. -/
theorem encode_of_decodeCmd {b : Byte} {i : Instr} (h : decodeCmd b = .ok i) (c : Config) (w : Width) :
    encode c w i = .cmd b := by
  unfold decodeCmd at h
  split at h
  · cases h
  next hr =>
    rw [eq_setWidth_cmdOp (not_not.mp hr)]
    repeat' split at h
    all_goals cases h
    all_goals
      next hop =>
        rw [hop]
        rfl

/-- A CMD byte decodes to a host operation, with a code from 1 to 7. -/
theorem code_of_decodeCmd {b : Byte} {i : Instr} (h : decodeCmd b = .ok i) :
    (∃ op, Machine.opOf i = some op) ∧ 1 ≤ b.toNat ∧ b.toNat ≤ 7 := by
  have he := encode_of_decodeCmd h Config.standard .w1
  cases i <;> simp only [encode, Words.cmd.injEq, reduceCtorEq] at he
  all_goals
    subst he
    exact ⟨⟨_, rfl⟩, by decide, by decide⟩

namespace Machine

/-- Settles O3: a byte that decoded would be a code from 1 to 7 (`code_of_decodeCmd`). -/
theorem commandBytesNameTheSevenOperations : Obligations.CommandBytesNameTheSevenOperations := by
  refine ⟨rfl, rfl, rfl, rfl, rfl, rfl, rfl, fun b hb => ?_⟩
  cases h : decodeCmd b with
  | error e => exact ⟨e, rfl⟩
  | ok i =>
    obtain ⟨_, hlow, hhigh⟩ := code_of_decodeCmd h
    rcases hb with rfl | hb
    · exact absurd hlow (by decide)
    · omega

end Machine
end Sys2Proof
end

section
/-! PROOFS. The descriptors (30_encoding R105-R112): a well-formed bus command's descriptor decodes to it. -/
namespace Sys2Proof.Machine
open Sys2Proof

/-- The byte of each bus command (30_encoding R110). -/
def commandByte (c : Config) : BusName → Byte
  | .rdid => opRdid
  | .wren => c.opWren
  | .qpien => c.opQpien
  | .srp => c.opSrp
  | .rdsr => c.opRdsr
  | .frqio => c.opFrqio
  | .pp => c.opPp
  | .ser => c.opSer
  | .be32k => c.opBe32k
  | .be64k => c.opBe64k
  | .cer => c.opCer

/-- Distinct command bytes name their own commands (30_encoding R112). -/
theorem busName?_commandByte {c : Config} (hc : c.commandBytes.Nodup) (n : BusName) :
    busName? c (commandByte c n) = some n := by
  simp only [Config.commandBytes, List.nodup_cons, List.mem_cons, List.not_mem_nil, or_false, not_or] at hc
  cases n <;> grind [busName?, commandByte]

/-- Every check of `decodeDesc` passed. -/
theorem decodeDesc_eq_ok {c : Config} {t : Desc} {n : BusName} (hn : busName? c t.cmd = some n)
    (hf : hasFormat (busFormat n) t = true) (hp : payloadLegal c n t = true)
    (hwf : wellFormed c (busInstr n t) = true) (hw : widthLegal t.w (busInstr n t) = true) :
    decodeDesc c t = .ok (busInstr n t) := by
  simp [decodeDesc, hn, hf, hp, hwf, hw]

/-- A bus command's descriptor has its command's byte, format and payload, and its operands are read off it. -/
theorem descriptor_format {i : Instr} (hi : opOf i = none) (c : Config) (w : Width) :
    ∃ n, (descriptor c w i).cmd = commandByte c n ∧ hasFormat (busFormat n) (descriptor c w i) = true ∧
      payloadLegal c n (descriptor c w i) = true ∧ busInstr n (descriptor c w i) = i := by
  cases i with
  | init | eraseChip | eraseSector | eraseBlock32K | eraseBlock64K | read | program => simp [opOf] at hi
  | rdid => exact ⟨.rdid, rfl, rfl, rfl, rfl⟩
  | wren => exact ⟨.wren, rfl, rfl, rfl, rfl⟩
  | qpien => exact ⟨.qpien, rfl, rfl, rfl, rfl⟩
  | srp => exact ⟨.srp, rfl, rfl, beq_self_eq_true _, rfl⟩
  | rdsr => exact ⟨.rdsr, rfl, rfl, rfl, rfl⟩
  | frqio => exact ⟨.frqio, rfl, rfl, rfl, rfl⟩
  | pp => exact ⟨.pp, rfl, rfl, rfl, rfl⟩
  | ser => exact ⟨.ser, rfl, rfl, rfl, rfl⟩
  | be32k => exact ⟨.be32k, rfl, rfl, rfl, rfl⟩
  | be64k => exact ⟨.be64k, rfl, rfl, rfl, rfl⟩
  | cer => exact ⟨.cer, rfl, rfl, rfl, rfl⟩

/-- A well-formed bus command's descriptor, at a width the command is issued at, decodes to it (30_encoding R110). -/
theorem decodeDesc_descriptor {c : Config} {w : Width} {i : Instr} (hc : c.Valid) (hi : opOf i = none)
    (hwf : wellFormed c i = true) (hw : widthLegal w i = true) : decodeDesc c (descriptor c w i) = .ok i := by
  obtain ⟨_, _, hnodup, _⟩ := hc
  obtain ⟨n, hcmd, hformat, hpayload, hinstr⟩ := descriptor_format hi c w
  have hname : busName? c (descriptor c w i).cmd = some n := by rw [hcmd, busName?_commandByte hnodup]
  have hok := decodeDesc_eq_ok hname hformat hpayload (by rwa [hinstr]) (by rwa [hinstr, descriptor_w])
  rw [hok, hinstr]

end Sys2Proof.Machine
end

section
/-! PROOFS. What one step can do, said once: an inversion lemma for each statement, for the sequencer and for the
operand forms. -/
namespace Sys2Proof.Machine
open Sys2Proof

/-! ### Operands -/

theorem operand_eq_ok {α : Type} {r : Operand} {v : Option α} {x : α} : operand r v = .ok x ↔ v = some x := by
  cases v <;> simp [operand]

theorem map_operand_eq_ok {α β : Type} {r : Operand} {v : Option α} {f : α → β} {y : β} :
    (operand r v).map f = .ok y ↔ ∃ x, v = some x ∧ f x = y := by
  cases v <;> simp [operand, Except.map]

/-- An erase statement issues CER, or the unit erase of its operation at INDEX (42_erase R181-R185). -/
theorem eraseCommand_eq_ok {op : Op} {s : State} {i : Instr} (h : eraseCommand op s = .ok i) :
    (op = .eraseChip ∧ i = .cer) ∨ ∃ n, s.index = some n ∧
      (op = .eraseSector ∧ i = .ser (unitAddr op n) ∨ op = .eraseBlock32K ∧ i = .be32k (unitAddr op n) ∨
        op = .eraseBlock64K ∧ i = .be64k (unitAddr op n)) := by
  cases op with
  | init | read | program => cases h
  | eraseChip => cases h; exact .inl ⟨rfl, rfl⟩
  | eraseSector | eraseBlock32K | eraseBlock64K =>
    obtain ⟨n, hn, rfl⟩ := map_operand_eq_ok.mp h
    exact .inr ⟨n, hn, by simp⟩

theorem readCommand_eq_ok {s : State} {i : Instr} (h : readCommand s = .ok i) :
    ∃ w, currentWindow s = some w ∧ i = .frqio (BitVec.ofNat 24 w.addr) w.len := by
  unfold readCommand at h
  split at h
  · cases h
  next w hw =>
    obtain ⟨_, _, rfl⟩ := map_operand_eq_ok.mp h
    exact ⟨w, hw, rfl⟩

theorem programCommand_eq_ok {s : State} {i : Instr} (h : programCommand s = .ok i) :
    ∃ w b, currentWindow s = some w ∧ s.buf = some b ∧
      i = .pp (BitVec.ofNat 24 w.addr) (memBytes hostDefault s.hostMem (b + w.off) w.len) := by
  unfold programCommand at h
  split at h
  · cases h
  next w hw =>
    obtain ⟨b, hb, rfl⟩ := map_operand_eq_ok.mp h
    exact ⟨w, b, hw, hb, rfl⟩

/-- The sequencer issues bus commands only. -/
theorem opOf_busCommand {op : Op} {b : BusStmt} {s : State} {i : Instr} (h : busCommand op b s = .ok i) :
    opOf i = none := by
  cases b with
  | rdid | wren | qpien | srp | rdsr => cases h; rfl
  | erase => obtain ⟨_, rfl⟩ | ⟨_, _, ⟨_, rfl⟩ | ⟨_, rfl⟩ | ⟨_, rfl⟩⟩ := eraseCommand_eq_ok h <;> rfl
  | frqio => obtain ⟨_, _, rfl⟩ := readCommand_eq_ok h; rfl
  | pp => obtain ⟨_, _, _, _, rfl⟩ := programCommand_eq_ok h; rfl

/-! ### Statements -/

theorem stepWaitIdle_cases (s : State) :
    (nextBusy s).1 = false ∧ stepWaitIdle s = advance { queryBusy s with idleCount := none } ∨
    (nextBusy s).1 = true ∧
      (boundReached s.cfg.maxIdleQueries (s.idleCount.getD 0 + 1) = true ∧
          stepWaitIdle s = raiseError codeTimeout (.timeout .idle) (queryBusy s) ∨
        boundReached s.cfg.maxIdleQueries (s.idleCount.getD 0 + 1) = false ∧
          stepWaitIdle s = { queryBusy s with idleCount := some (s.idleCount.getD 0 + 1) }) := by
  cases hb : (nextBusy s).1 with
  | false => simp [stepWaitIdle, hb]
  | true => cases hk : boundReached s.cfg.maxIdleQueries (s.idleCount.getD 0 + 1) <;> simp [stepWaitIdle, hb, hk]

theorem stepCheckId_next {s t : State} (h : stepCheckId s = .next t) :
    ∃ id, s.idBytes = some id ∧
      (id = s.cfg.expectedId ∧ t = advance s ∨
        id ≠ s.cfg.expectedId ∧ t = raiseError codeIdentityMismatch (.identity id) s) := by
  unfold stepCheckId at h
  split at h
  · cases h
  next id hid =>
    refine ⟨id, hid, ?_⟩
    split at h <;> cases h <;> simp [*]

theorem stepCheckIndex_next {op : Op} {s t : State} (h : stepCheckIndex op s = .next t) :
    ∃ n, s.index = some n ∧
      (pastIndex op n = true ∧ t = raiseError codeOutOfRange .none s ∨ pastIndex op n = false ∧ t = advance s) := by
  unfold stepCheckIndex at h
  split at h
  · cases h
  next n hn =>
    refine ⟨n, operand_eq_ok.mp hn, ?_⟩
    split at h <;> cases h <;> simp [*]

theorem stepCheckRange_next {s t : State} (h : stepCheckRange s = .next t) :
    ∃ a n, s.addr = some a ∧ s.len = some n ∧
      (pastCapacity a n = true ∧ t = raiseError codeOutOfRange .none s ∨ pastCapacity a n = false ∧ t = advance s) := by
  unfold stepCheckRange at h
  split at h
  · cases h
  · cases h
  next a n ha hn =>
    refine ⟨a, n, operand_eq_ok.mp ha, operand_eq_ok.mp hn, ?_⟩
    split at h <;> cases h <;> simp [*]

theorem stepForWindow_next {op : Op} {s t : State} (h : stepForWindow op s = .next t) :
    ∃ a n, s.addr = some a ∧ s.len = some n ∧
      ((nextCursor a n s).k < (nextCursor a n s).windows.length ∧
          t = advance { s with cursor := some (nextCursor a n s) } ∨
        (nextCursor a n s).windows.length ≤ (nextCursor a n s).k ∧
          t = gotoPc op (loopExit op) { s with cursor := some (nextCursor a n s) }) := by
  unfold stepForWindow at h
  split at h
  · cases h
  · cases h
  next a n ha hn =>
    refine ⟨a, n, operand_eq_ok.mp ha, operand_eq_ok.mp hn, ?_⟩
    dsimp only at h
    split at h <;> cases h
    next hk => exact .inl ⟨hk, rfl⟩
    next hk => exact .inr ⟨Nat.le_of_not_lt hk, rfl⟩

theorem stepPollTest_next {op : Op} {pc : Nat} {s t : State} (h : stepPollTest op pc s = .next t) :
    ∃ sr count, s.srByte = some sr ∧ s.pollCount = some count ∧
      (wip sr = false ∧ t = advance { s with srByte := none, pollCount := none } ∨
        wip sr = true ∧ boundReached s.cfg.maxPolls (count + 1) = true ∧
          t = raiseError codeTimeout (.timeout .poll) { s with pollCount := some (count + 1) } ∨
        wip sr = true ∧ boundReached s.cfg.maxPolls (count + 1) = false ∧
          t = gotoPc op (pc - 1) { s with pollCount := some (count + 1) }) := by
  unfold stepPollTest at h
  split at h
  · cases h
  · cases h
  next sr count hsr hcount =>
    refine ⟨sr, count, hsr, hcount, ?_⟩
    dsimp only at h
    split at h
    · cases h; simp_all
    · split at h <;> cases h <;> simp_all

theorem runStmt_issue_next {op : Op} {pc : Nat} {b : BusStmt} {s t : State}
    (h : runStmt op pc (.issue b) s = .next t) :
    ∃ i, busCommand op b s = .ok i ∧ exec i (beforeIssue b s) = .next t := by
  simp only [runStmt] at h
  split at h
  next i hi => exact ⟨i, hi, h⟩
  · cases h

/-- The sequencer waits, or takes the statement SEQ names (10_state R33). -/
theorem runSequencer_next {s t : State} (h : runSequencer s = .next t) :
    s.seq = .idle ∧ t = s ∨
      ∃ op pc st, s.seq = .at op pc ∧ (ruleOf op)[pc]? = some st ∧ runStmt op pc st s = .next t := by
  unfold runSequencer at h
  split at h
  next hs => cases h; exact .inl ⟨hs, rfl⟩
  next op pc hs =>
    split at h
    next st hst => exact .inr ⟨op, pc, st, hs, hst, h⟩
    · cases h

/-! ### Host actions -/

theorem issueOp_next {op : Op} {s t : State} (h : issueOp op s = .next t) :
    s.ctrlBusy = false ∧
      (acceptedIn op s.lifecycle = true ∧ t = startOp op s ∨
        acceptedIn op s.lifecycle = false ∧
          t = rejectCommand (some op) codeStateError (.lifecycle s.lifecycle) s) := by
  unfold issueOp at h
  split at h
  · cases h
  · split at h <;> cases h <;> simp_all

theorem writeOperand_next {s t u : State} (h : writeOperand s u = .next t) : s.ctrlBusy = false ∧ t = u := by
  unfold writeOperand at h
  split at h <;> cases h
  next hb => exact ⟨by simpa using hb, rfl⟩

theorem hostStore_next {a : Nat} {bs : List Byte} {s t : State} (h : hostStore a bs s = .next t) :
    (s.ctrlBusy && touchesBuffer s a bs.length) = false ∧
      t = { s with hostMem := memWrite hostDefault s.hostMem a bs } := by
  unfold hostStore at h
  split at h <;> cases h
  next hb => exact ⟨by simpa using hb, rfl⟩

theorem readRegister_next {r : HostReg} {s t : State} (h : readRegister r s = .next t) :
    ∃ v, hostReadValue r s = .ok v ∧ t = { s with hostRead := some v } := by
  unfold readRegister at h
  split at h <;> cases h
  next v hv => exact ⟨v, hv, rfl⟩

/-- A CMD write starts the operation its byte names, or ends at once in an error (30_encoding R102, R103). -/
theorem writeCommand_next {b : Byte} {s t : State} (h : writeCommand b s = .next t) :
    s.ctrlBusy = false ∧
      ((∃ op, acceptedIn op s.lifecycle = true ∧ t = startOp op { s with cmd := b }) ∨
        ∃ op r, t = endOp op r { s with cmd := b }) := by
  unfold writeCommand at h
  split at h
  · cases h
  next hb =>
    refine ⟨by simpa using hb, ?_⟩
    split at h
    next i hi =>
      obtain ⟨⟨op, hop⟩, _⟩ := code_of_decodeCmd hi
      rw [exec_op hop] at h
      obtain ⟨_, ⟨ha, rfl⟩ | ⟨_, rfl⟩⟩ := issueOp_next h
      · exact .inl ⟨op, ha, rfl⟩
      · exact .inr ⟨_, _, rejectCommand_eq ..⟩
    · cases h
      exact .inr ⟨_, _, rejectCommand_eq ..⟩

end Sys2Proof.Machine
end

section
/-! PROOFS. The windows of a transfer (43_chunker R201-R204) and the unit addresses of an erase (42_erase R182). -/
namespace Sys2Proof.Machine
open Sys2Proof

/-- A window of the list holds 1 to CHUNK bytes, inside the request and inside one CHUNK-aligned block. -/
theorem window_of_mem_chunksFrom {c fuel cur off rem : Nat} (hc : 0 < c) {w : Window}
    (hw : w ∈ chunksFrom c fuel cur off rem) :
    1 ≤ w.len ∧ w.addr % c + w.len ≤ c ∧ cur ≤ w.addr ∧ w.addr + w.len ≤ cur + rem := by
  induction fuel generalizing cur off rem with
  | zero => simp [chunksFrom] at hw
  | succ fuel ih =>
    rcases Nat.eq_zero_or_pos rem with rfl | hrem
    · simp [chunksFrom_nothing] at hw
    · have hlt := Nat.mod_lt cur hc
      rw [chunksFrom_next hrem.ne'] at hw
      rcases List.mem_cons.mp hw with rfl | hw
      · dsimp only
        omega
      · obtain ⟨hpos, hblock, hlow, hhigh⟩ := ih hw
        omega

/-- The same of the windows of a request (43_chunker R200). -/
theorem window_of_mem_chunks {c a n : Nat} (hc : 0 < c) {w : Window} (hw : w ∈ chunks c a n) :
    1 ≤ w.len ∧ w.addr % c + w.len ≤ c ∧ a ≤ w.addr ∧ w.addr + w.len ≤ a + n :=
  window_of_mem_chunksFrom hc hw

/-- A block whose size divides PAGE_SIZE lies inside one page (43_chunker R204). -/
theorem inOnePage_of_block {c a n : Nat} (hdvd : c ∣ pageSize) (h : a % c + n ≤ c) : InOnePage a n := by
  obtain ⟨k, hk⟩ := hdvd
  have hmod : a % pageSize = a % c + c * (a / c % k) := by rw [hk, Nat.mod_mul]
  have hlt : a / c % k < k := Nat.mod_lt _ (Nat.pos_of_ne_zero (by rintro rfl; simp at hk))
  have hle : c * (a / c % k) + c ≤ c * k := by rw [← Nat.mul_succ]; exact Nat.mul_le_mul_left c hlt
  unfold InOnePage
  omega

/-- An index in range gives the address of a unit inside the array (42_erase R182). -/
theorem unitAddr_legal {op : Op} {size m : Nat} {n : Word} (hs : 2 ^ unitShift op = size)
    (hm : (m + 1) * size = capacity) (hn : n.toNat ≤ m) : UnitAddr size (unitAddr op n).toNat := by
  have hlt : n.toNat * size < capacity := by
    have hpos : 0 < size := hs ▸ Nat.two_pow_pos _
    rw [← hm]
    exact Nat.mul_lt_mul_of_pos_right (Nat.lt_succ_of_le hn) hpos
  have haddr : (unitAddr op n).toNat = n.toNat * size := by
    rw [unitAddr, BitVec.toNat_ofNat, Nat.shiftLeft_eq, hs, Nat.mod_eq_of_lt (Nat.lt_trans hlt (by decide))]
  rw [haddr]
  exact ⟨Nat.mul_mod_left _ _, hlt⟩

end Sys2Proof.Machine
end

section
/-! PROOFS. What the sequencer issues (30_encoding R110, R111): a statement that issues a bus command stands where the
operands have been checked and the width has been set, so the command is one FLASHCTRL may issue. -/
namespace Sys2Proof.Machine
open Sys2Proof

/-- Where the rules issue each bus command; WREN and RDSR go out at either width, so their places do not matter. -/
def IssuePlace : BusStmt → Op → Nat → Prop
  | .rdid, op, pc => op = .init ∧ pc = 1
  | .qpien, op, pc => op = .init ∧ pc = 5
  | .srp, op, pc => op = .init ∧ pc = 8
  | .erase, op, pc =>
      op = .eraseChip ∧ pc = 2 ∨ (op = .eraseSector ∨ op = .eraseBlock32K ∨ op = .eraseBlock64K) ∧ pc = 3
  | .frqio, op, pc => op = .read ∧ pc = 3
  | .pp, op, pc => op = .program ∧ pc = 4
  | .wren, _, _ | .rdsr, _, _ => True

theorem issuePlace_of_rule {op : Op} {pc : Nat} {b : BusStmt} (h : (ruleOf op)[pc]? = some (.issue b)) :
    IssuePlace b op pc := by
  have hlt : pc < (ruleOf op).length := (List.getElem?_eq_some_iff.mp h).1
  cases op <;> simp only [ruleOf, eraseTail, List.length_cons, List.length_nil] at hlt h
  all_goals
    interval_cases pc <;> cases h <;> simp [IssuePlace]

/-! ### What the invariant says at those places -/

/-- An operation other than INIT runs at width 4 (40_bus_primitives R148). -/
theorem busWidth_of_not_init {s : State} {op : Op} {pc : Nat} (h : AtStatement s op pc) (hop : op ≠ .init) :
    s.busWidth = .w4 := by
  cases op with
  | init => exact absurd rfl hop
  | eraseChip | eraseSector | eraseBlock32K | eraseBlock64K | read | program =>
    obtain ⟨_, _, hw, _⟩ := h
    exact hw

/-- The unit erase of an operation past its index check, at a unit of the array (42_erase R182, R187). -/
theorem erase_issued_legal {s : State} {op : Op} {pc : Nat} {i : Instr} (h : AtStatement s op pc) (hpc : 1 ≤ pc)
    (hi : eraseCommand op s = .ok i) : wellFormed s.cfg i = true ∧ widthLegal s.busWidth i = true := by
  rcases eraseCommand_eq_ok hi with ⟨rfl, rfl⟩ | ⟨n, hn, ⟨rfl, rfl⟩ | ⟨rfl, rfl⟩ | ⟨rfl, rfl⟩⟩
  · rw [busWidth_of_not_init h (by decide)]
    exact ⟨rfl, rfl⟩
  all_goals
    rw [busWidth_of_not_init h (by decide)]
    obtain ⟨_, _, _, _, _, hindex⟩ := h
    obtain ⟨m, hm, hle⟩ := hindex hpc
    obtain rfl : m = n := Option.some.inj (hm.symm.trans hn)
    exact ⟨decide_eq_true (unitAddr_legal (by decide) (by decide) hle), rfl⟩

/-- The current window of READ or PROGRAM is one of the chunker's for a request inside the array. -/
theorem window_of_current {s : State} {w : Window} (hc : s.cfg.Valid) (hrange : RangeChecked s)
    (hcursor : ∀ c, s.cursor = some c → CursorOfOperands s c) (hw : currentWindow s = some w) :
    WindowLen s.cfg w.len ∧ InOnePage w.addr w.len ∧ w.addr < capacity := by
  obtain ⟨hpos, hdvd, _⟩ := hc
  obtain ⟨a, n, ha, hn, hin⟩ := hrange
  obtain ⟨c, hcur, hget⟩ := Option.bind_eq_some_iff.mp hw
  obtain ⟨a', n', ha', hn', hwin⟩ := hcursor c hcur
  obtain rfl : a = a' := Option.some.inj (ha.symm.trans ha')
  obtain rfl : n = n' := Option.some.inj (hn.symm.trans hn')
  obtain ⟨hone, hblock, _, hend⟩ := window_of_mem_chunks hpos (hwin ▸ List.mem_of_getElem? hget)
  exact ⟨⟨hone, by omega⟩, inOnePage_of_block (Nat.dvd_of_mod_eq_zero hdvd) hblock, by omega⟩

/-- An address of the array fits the bus (30_encoding R105). -/
theorem toNat_busAddr {a : Nat} (h : a < capacity) : (BitVec.ofNat 24 a : BusAddr).toNat = a := by
  rw [BitVec.toNat_ofNat, Nat.mod_eq_of_lt (Nat.lt_trans h (by decide))]

/-- The FRQIO of a READ's window (40_bus_primitives R154). -/
theorem read_issued_legal {s : State} {i : Instr} (hc : s.cfg.Valid) (h : AtStatement s .read 3)
    (hi : readCommand s = .ok i) : wellFormed s.cfg i = true ∧ widthLegal s.busWidth i = true := by
  obtain ⟨w, hw, rfl⟩ := readCommand_eq_ok hi
  obtain ⟨_, _, hwidth, hrange, hcursor, _⟩ := h
  obtain ⟨hlen, _, haddr⟩ := window_of_current hc (hrange (by decide)) hcursor hw
  rw [hwidth]
  exact ⟨decide_eq_true ⟨hlen, by rwa [toNat_busAddr haddr]⟩, rfl⟩

/-- The PP of a PROGRAM's window (40_bus_primitives R155). -/
theorem program_issued_legal {s : State} {i : Instr} (hc : s.cfg.Valid) (h : AtStatement s .program 4)
    (hi : programCommand s = .ok i) : wellFormed s.cfg i = true ∧ widthLegal s.busWidth i = true := by
  obtain ⟨w, b, hw, _, rfl⟩ := programCommand_eq_ok hi
  obtain ⟨_, _, hwidth, _, hrange, hcursor, _⟩ := h
  obtain ⟨hlen, hpage, haddr⟩ := window_of_current hc (hrange (by decide)) hcursor hw
  have hbytes : (memBytes hostDefault s.hostMem (b + w.off) w.len).length = w.len := by simp [memBytes]
  rw [hwidth]
  refine ⟨decide_eq_true ?_, rfl⟩
  rw [hbytes, toNat_busAddr haddr]
  exact ⟨hlen, hpage, haddr⟩

/-- What a statement issues is well-formed, and BUS_WIDTH is one the command is issued at. -/
theorem issued_legal {s : State} {op : Op} {pc : Nat} {b : BusStmt} {i : Instr} (hc : s.cfg.Valid)
    (h : AtStatement s op pc) (hst : (ruleOf op)[pc]? = some (.issue b)) (hi : busCommand op b s = .ok i) :
    wellFormed s.cfg i = true ∧ widthLegal s.busWidth i = true := by
  have hplace := issuePlace_of_rule hst
  cases b with
  | wren | rdsr => cases hi; exact ⟨rfl, rfl⟩
  | rdid | qpien =>
    cases hi
    obtain ⟨rfl, rfl⟩ := hplace
    obtain ⟨_, _, _, hw1, _⟩ := h
    rw [hw1 (by decide)]
    exact ⟨rfl, rfl⟩
  | srp =>
    cases hi
    obtain ⟨rfl, rfl⟩ := hplace
    obtain ⟨_, _, _, _, hw4, _⟩ := h
    rw [hw4 (by decide)]
    exact ⟨rfl, rfl⟩
  | erase =>
    have hpc : 1 ≤ pc := by
      simp only [IssuePlace] at hplace
      omega
    exact erase_issued_legal h hpc hi
  | frqio =>
    obtain ⟨rfl, rfl⟩ := hplace
    exact read_issued_legal hc h hi
  | pp =>
    obtain ⟨rfl, rfl⟩ := hplace
    exact program_issued_legal hc h hi

end Sys2Proof.Machine
end

section
/-! PROOFS. What a step adds to the trace (20_memory R92, 30_encoding R111): the transaction of a statement that issues
a bus command, and else no transaction. -/
namespace Sys2Proof.Machine
open Sys2Proof

/-! ### Traces that decode -/

@[simp] theorem traceDecodes_append {c : Config} {t u : List Event} :
    TraceDecodes c (t ++ u) ↔ TraceDecodes c t ∧ TraceDecodes c u := by
  simp only [TraceDecodes, List.mem_append, or_imp, forall_and]

@[simp] theorem traceDecodes_nil (c : Config) : TraceDecodes c [] := nofun

@[simp] theorem traceDecodes_cons_tx {c : Config} {d : Desc} {r : TxOutcome} {t : List Event} :
    TraceDecodes c (.tx d r :: t) ↔ (∃ i, decodeDesc c d = .ok i) ∧ TraceDecodes c t := by
  simp only [TraceDecodes, List.mem_cons, Event.tx.injEq, or_imp, forall_and, and_imp, forall_eq_apply_imp_iff,
    forall_eq]

@[simp] theorem traceDecodes_cons_busy {c : Config} {b : Bool} {t : List Event} :
    TraceDecodes c (.busy b :: t) ↔ TraceDecodes c t := by
  simp [TraceDecodes]

@[simp] theorem traceDecodes_cons_width {c : Config} {w : Width} {t : List Event} :
    TraceDecodes c (.width w :: t) ↔ TraceDecodes c t := by
  simp [TraceDecodes]

@[simp] theorem traceDecodes_cons_ended {c : Config} {r : Result} {bs : List Byte} {t : List Event} :
    TraceDecodes c (.ended r bs :: t) ↔ TraceDecodes c t := by
  simp [TraceDecodes]

/-! ### Each part of a step -/

/-- A transaction adds its descriptor, and at most the operation's end. -/
theorem traceDecodes_transact {s : State} {i : Instr} (h : TraceDecodes s.cfg s.trace)
    (hd : decodeDesc s.cfg (descriptor s.cfg s.busWidth i) = .ok i) (anytime : Bool) (eff : DevEffect) :
    TraceDecodes (transact i anytime eff (busReceiver i) s).cfg (transact i anytime eff (busReceiver i) s).trace := by
  rcases transact_cases i anytime eff (busReceiver i) s with ⟨_, _, ht⟩ | ⟨_, _, ht⟩ <;> rw [ht] <;>
    simp [h, hd]

/-- A statement that issues a bus command. -/
theorem traceDecodes_issue {s t : State} {op : Op} {pc : Nat} {b : BusStmt} (hc : s.cfg.Valid)
    (hat : AtStatement s op pc) (hst : (ruleOf op)[pc]? = some (.issue b)) (h : TraceDecodes s.cfg s.trace)
    (hs : runStmt op pc (.issue b) s = .next t) : TraceDecodes t.cfg t.trace := by
  obtain ⟨i, hi, hexec⟩ := runStmt_issue_next hs
  have hbus := opOf_busCommand hi
  obtain ⟨hwf, hw⟩ := issued_legal hc hat hst hi
  obtain ⟨_, rfl⟩ := exec_bus_next hbus hexec
  exact traceDecodes_transact (by simpa using h) (by simpa using decodeDesc_descriptor hc hbus hwf hw) _ _

/-- Any other statement: a busy query, a width switch, a check, an end. -/
theorem traceDecodes_internal {s t : State} {op : Op} {pc : Nat} {st : Stmt} (hst : ∀ b, st ≠ .issue b)
    (h : TraceDecodes s.cfg s.trace) (hs : runStmt op pc st s = .next t) : TraceDecodes t.cfg t.trace := by
  cases st with
  | issue b => exact absurd rfl (hst b)
  | setWidth w => cases hs; simp [h]
  | waitIdle =>
    cases hs
    obtain ⟨_, ht⟩ | ⟨_, ⟨_, ht⟩ | ⟨_, ht⟩⟩ := stepWaitIdle_cases s <;> simp [ht, h]
  | checkId => obtain ⟨_, _, ⟨_, rfl⟩ | ⟨_, rfl⟩⟩ := stepCheckId_next hs <;> simp [h]
  | checkIndex => obtain ⟨_, _, ⟨_, rfl⟩ | ⟨_, rfl⟩⟩ := stepCheckIndex_next hs <;> simp [h]
  | checkRange => obtain ⟨_, _, _, _, ⟨_, rfl⟩ | ⟨_, rfl⟩⟩ := stepCheckRange_next hs <;> simp [h]
  | forWindow => obtain ⟨_, _, _, _, ⟨_, rfl⟩ | ⟨_, rfl⟩⟩ := stepForWindow_next hs <;> simp [h]
  | pollTest =>
    obtain ⟨_, _, _, _, ⟨_, rfl⟩ | ⟨_, _, rfl⟩ | ⟨_, _, rfl⟩⟩ := stepPollTest_next hs <;> simp [h]
  | finishInit => cases hs; simp [stepFinishInit, stepFinish, h]
  | finish => cases hs; simp [stepFinish, h]

/-- The sequencer's step. -/
theorem traceDecodes_runSequencer {s t : State} (hc : s.cfg.Valid) (hseq : SeqInv s) (h : TraceDecodes s.cfg s.trace)
    (hs : runSequencer s = .next t) : TraceDecodes t.cfg t.trace := by
  obtain ⟨_, rfl⟩ | ⟨op, pc, st, hat, hst, hrun⟩ := runSequencer_next hs
  · exact h
  · by_cases hissue : ∃ b, st = .issue b
    · obtain ⟨b, rfl⟩ := hissue
      simp only [SeqInv, hat] at hseq
      exact traceDecodes_issue hc hseq.2 hst h hrun
    · exact traceDecodes_internal (not_exists.mp hissue) h hrun

/-- A host action puts no transaction on the bus (30_encoding R102, 70_reset R290). -/
theorem traceDecodes_hostAct {s t : State} {a : HostAction} (h : TraceDecodes s.cfg s.trace)
    (hs : hostAct a s = .next t) : TraceDecodes t.cfg t.trace := by
  cases a with
  | writeCmd b => obtain ⟨_, ⟨_, _, rfl⟩ | ⟨_, _, rfl⟩⟩ := writeCommand_next hs <;> simp [h]
  | writeAddr | writeLen | writeIndex | writeBuf => obtain ⟨_, rfl⟩ := writeOperand_next hs; exact h
  | store => obtain ⟨_, rfl⟩ := hostStore_next hs; exact h
  | readReg => obtain ⟨_, _, rfl⟩ := readRegister_next hs; exact h
  | reset | powerCycle => cases hs; exact h

/-- Settles O53: a step's one transaction is a statement's, and `issued_legal` with `decodeDesc_descriptor` says which
command it is; every other step adds none. -/
theorem stepEmitsOnlyTheElevenCommands : Obligations.StepEmitsOnlyTheElevenCommands := by
  intro s t hinv htrace hs
  have hc := valid_of_next hs
  obtain ⟨r, hstep, _⟩ | ⟨r, hstep, _⟩ | ⟨a, r, hstep, _⟩ := step_cases s hc <;> rw [hstep] at hs
  · exact traceDecodes_runSequencer (s := { s with host := r }) hc hinv.sequencer htrace hs
  · cases hs; exact htrace
  · exact traceDecodes_hostAct (s := { s with host := r }) htrace hs

end Sys2Proof.Machine
end

section
/-! PROOFS. The two primitives that put no transaction on the bus: SetWidth (40_bus_primitives R147) and WaitIdle
(R145). -/
namespace Sys2Proof.Machine
open Sys2Proof

/-! ### SetWidth -/

/-- INIT alone switches the width: to 1 first, to 4 after QPIEN (41_init R161, R165). -/
theorem setWidth_of_rule {op : Op} {pc : Nat} {w : Width} (h : (ruleOf op)[pc]? = some (.setWidth w)) :
    op = .init ∧ (pc = 0 ∧ w = .w1 ∨ pc = 6 ∧ w = .w4) := by
  have hlt : pc < (ruleOf op).length := (List.getElem?_eq_some_iff.mp h).1
  cases op <;> simp only [ruleOf, eraseTail, List.length_cons, List.length_nil] at hlt h
  all_goals
    interval_cases pc <;> cases h <;> simp

/-- Settles O42: `setWidth_of_rule` places the calls, all in INIT, where the next statement in text order follows. -/
theorem setWidthSwitchesTheBus : Obligations.SetWidthSwitchesTheBus := by
  refine ⟨fun s op pc w hrun hst => ?_, fun _ _ _ => setWidth_of_rule, rfl, rfl, rfl⟩
  obtain ⟨hvalid, hwait, hbusy, hseq⟩ := hrun
  obtain ⟨rfl, _⟩ := setWidth_of_rule hst
  rw [step_at hvalid hwait hbusy hseq hst]
  simp [runStmt, stepSetWidth, advance, logEvent, hseq, seqAfter, nextPc]

/-! ### WaitIdle -/

theorem step_waitIdle {s : State} {op : Op} {pc : Nat} (hrun : Running s op pc)
    (hst : (ruleOf op)[pc]? = some .waitIdle) : step s = .next (stepWaitIdle s) := by
  obtain ⟨hvalid, hwait, hbusy, hseq⟩ := hrun
  exact step_at hvalid hwait hbusy hseq hst

/-- The busy answer that reaches the bound raises TIMEOUT(IDLE). -/
theorem stepWaitIdle_bound {s : State} {r : List Bool} (h : s.busyIn = true :: r)
    (hb : boundReached s.cfg.maxIdleQueries (s.idleCount.getD 0 + 1) = true) :
    stepWaitIdle s =
      raiseError codeTimeout (.timeout .idle)
        { s with busyIn := r, transportBusy := true, trace := s.trace ++ [.busy true] } := by
  simp [stepWaitIdle, queryBusy, nextBusy, h, logEvent, hb]

/-- Raising an error is no bus event (60_exceptions R267). -/
theorem busEvents_raiseError (code : Byte) (info : Info) (s : State) :
    busEvents (raiseError code info s).trace = busEvents s.trace := by
  simp [busEvents, isBusEvent]

/-- Busy queries are bus events (20_memory R92). -/
theorem busEvents_replicate_busy (n : Nat) (b : Bool) :
    busEvents (List.replicate n (.busy b)) = List.replicate n (.busy b) :=
  busEvents_of_all (by simp [isBusEvent])

@[simp] theorem boundReached_self (k : Nat) : boundReached (some k) k = true := by
  simp [boundReached]

/-- A run with one more step at its end. -/
theorem runSteps_snoc {s t u : State} {m : Nat} (h : runSteps m s = .next t) (ht : step t = .next u) :
    runSteps (m + 1) s = .next u := by
  rw [runSteps_add h, runSteps_succ ht]
  rfl

/-- Busy answers that stay below the bound leave the operation at its wait, with each counted and in the trace. -/
theorem runSteps_waitIdle_busy {s : State} {op : Op} {pc m : Nat} {bs : List Bool} (hrun : Running s op pc)
    (hst : (ruleOf op)[pc]? = some .waitIdle) (hin : s.busyIn = List.replicate m true ++ bs)
    (hbound : ∀ k, s.cfg.maxIdleQueries = some k → s.idleCount.getD 0 + m < k) :
    ∃ (b : Bool) (c : Option Nat), c.getD 0 = s.idleCount.getD 0 + m ∧
      runSteps m s = .next
        { s with
          busyIn := bs, transportBusy := b, idleCount := c, trace := s.trace ++ List.replicate m (.busy true) } := by
  induction m generalizing s with
  | zero => exact ⟨s.transportBusy, s.idleCount, rfl, by simp [runSteps, ← show s.busyIn = bs from hin]⟩
  | succ m ih =>
    have hfirst : boundReached s.cfg.maxIdleQueries (s.idleCount.getD 0 + 1) = false :=
      boundReached_eq_false fun k hk => by have := hbound k hk; omega
    have hstep := step_waitIdle hrun hst
    rw [stepWaitIdle_busy (r := List.replicate m true ++ bs) hin hfirst] at hstep
    obtain ⟨b, c, hc, hrest⟩ := ih
      (s := { s with
        busyIn := List.replicate m true ++ bs, transportBusy := true, idleCount := some (s.idleCount.getD 0 + 1),
        trace := s.trace ++ [.busy true] })
      hrun rfl fun k hk => by have := hbound k hk; simp only [Option.getD_some]; omega
    refine ⟨b, c, by simp only [hc, Option.getD_some]; omega, ?_⟩
    rw [runSteps_succ hstep, hrest]
    simp [List.replicate_succ]

/-- Settles O43: `runSteps_waitIdle_busy` for the first `j` answers, then the step of the last one: idle, busy at the
bound, or busy below it. -/
theorem waitIdleIsBoundedOnlyByItsParameter : Obligations.WaitIdleIsBoundedOnlyByItsParameter := by
  intro s op pc j bs hrun hst hnone hbound
  have hcount : s.idleCount.getD 0 = 0 := by simp [hnone]
  have hprefix {r : List Bool} (hin : s.busyIn = List.replicate j true ++ r) :=
    runSteps_waitIdle_busy hrun hst hin (by rwa [hcount, Nat.zero_add])
  simp only [hcount, Nat.zero_add] at hprefix
  refine ⟨fun hin => ?_, fun hin => ?_⟩
  · obtain ⟨_, _, _, hj⟩ := hprefix hin
    rw [runSteps_snoc hj (step_waitIdle hrun hst), stepWaitIdle_idle rfl]
    obtain ⟨_, _, _, hseq⟩ := hrun
    simp [hseq, hnone, seqAfter]
  · rw [List.replicate_succ', List.append_assoc] at hin
    obtain ⟨_, c, hc, hj⟩ := hprefix hin
    have hlast := runSteps_snoc hj (step_waitIdle hrun hst)
    refine ⟨fun hk => ⟨_, hlast, ?_⟩, fun hk => ?_⟩
    · rw [stepWaitIdle_bound rfl (by simp [hc, hk])]
      rw [busEvents_raiseError, List.append_assoc, ← List.replicate_succ', busEvents_append,
        busEvents_replicate_busy]
      simp [codeTimeout]
    · have hbelow : boundReached s.cfg.maxIdleQueries (c.getD 0 + 1) = false :=
        boundReached_eq_false fun k hk' => by
          have := hbound k hk'
          have : k ≠ j + 1 := fun h => hk (h ▸ hk')
          omega
      rw [hlast, stepWaitIdle_busy rfl hbelow]
      simp [hc, List.replicate_succ']

end Sys2Proof.Machine
end

section
/-! PROOFS. The identity gate of INIT (41_init R163). -/
namespace Sys2Proof.Machine
open Sys2Proof

/-- Two identity tuples are equal when their three bytes are (30_encoding R115). -/
theorem ident_eq_iff (x y : Ident) :
    x = y ↔ x.manufacturer = y.manufacturer ∧ x.device = y.device ∧ x.capacity = y.capacity := by
  cases x; cases y; simp

/-- The end of an operation other than READ has no buffer to show (20_memory R92). -/
theorem endBuffer_of_not_read {op : Op} (h : op ≠ .read) (s : State) : endBuffer (some op) s = [] := by
  unfold endBuffer
  split <;> simp_all

/-- An error of an operation other than READ that cannot leave the device busy (60_exceptions R267, 70_reset R301): the
operation ends, and what it does not write stays. -/
theorem raiseError_of_not_read {s : State} {op : Op} {code : Byte} (hop : runningOp s = some op) (hread : op ≠ .read)
    (hbusy : mayLeaveBusy (some op) code = false) (info : Info) :
    raiseError code info s =
      { s with
        lifecycle := if op = .init then .initFailed else s.lifecycle, result := ⟨code, info⟩, ctrlBusy := false,
        seq := .idle, cursor := none, pollCount := none, idleCount := none, idBytes := none, srByte := none,
        trace := s.trace ++ [.ended ⟨code, info⟩ []] } := by
  have hspoil : spoilBuffer s = s := spoilBuffer_of_not_read (by simp [hop, hread])
  simp [raiseError, endOp, hspoil, hop, hbusy, endBuffer_of_not_read hread]

/-- The gate lets the expected identity pass. -/
theorem stepCheckId_match {s : State} {id : Ident} (hid : s.idBytes = some id) (h : id = s.cfg.expectedId) :
    stepCheckId s = .next (advance s) := by
  simp [stepCheckId, hid, h]

/-- The gate raises IDENTITY_MISMATCH, with the bytes read, on any other. -/
theorem stepCheckId_mismatch {s : State} {id : Ident} (hid : s.idBytes = some id) (h : id ≠ s.cfg.expectedId) :
    stepCheckId s = .next (raiseError codeIdentityMismatch (.identity id) s) := by
  simp [stepCheckId, hid, h]

/-- Settles O41: INIT's statement 3 is the gate; equal bytes are an equal tuple (`ident_eq_iff`), and the error's
whole state is `raiseError_of_not_read`. -/
theorem identityGate : Obligations.IdentityGate := by
  intro s id hrun hcursor hid
  obtain ⟨hvalid, hwait, hbusy, hseq⟩ := hrun
  have hgate : step s = stepCheckId s := step_at hvalid hwait hbusy hseq rfl
  refine ⟨fun heq => ?_, fun hne => ?_⟩
  · rw [hgate, stepCheckId_match hid ((ident_eq_iff ..).mpr heq)]
    simp [advance, hseq, seqAfter, nextPc]
  · have hdiff : id ≠ s.cfg.expectedId := by
      rwa [Ne, ident_eq_iff, not_and_or, not_and_or]
    have hop : runningOp s = some .init := by rw [runningOp, hseq]
    rw [hgate, stepCheckId_mismatch hid hdiff,
      raiseError_of_not_read hop (by decide) (mayLeaveBusy_identityMismatch _)]
    simp [hcursor, codeIdentityMismatch]

end Sys2Proof.Machine
end

section
/-! PROOFS. The index of an erase: its check (42_erase R187) and the address it gives (R182). -/
namespace Sys2Proof.Machine
open Sys2Proof

/-! ### The start of an operation, from the CMD write on -/

theorem issueOp_accepted {op : Op} {s : State} (hb : s.ctrlBusy = false) (ha : acceptedIn op s.lifecycle = true) :
    issueOp op s = .next (startOp op s) := by
  simp [issueOp, hb, ha]

theorem runSteps_one (s : State) : runSteps 1 s = step s := by
  cases h : step s <;> simp only [runSteps, h]

/-- Two steps from the CMD write of an operation that is accepted: the operation starts, and takes its rule's first
statement (30_encoding R102, 00_scope R7). -/
theorem runSteps_two_of_command {s : State} {r : List HostEvent} {b : Byte} {i : Instr} {op : Op} {st : Stmt}
    (hc : s.cfg.Valid) (hh : s.host = .act (.writeCmd b) :: r) (hwait : hostWaits r = true)
    (hb : s.ctrlBusy = false) (hd : decodeCmd b = .ok i) (hop : opOf i = some op)
    (ha : acceptedIn op s.lifecycle = true) (hst : (ruleOf op)[0]? = some st) :
    runSteps 2 s = runStmt op 0 st (startOp op { s with host := r, cmd := b }) := by
  have hstart : step s = .next (startOp op { s with host := r, cmd := b }) := by
    rw [step_command hc hh hb hd, exec_op hop]
    exact issueOp_accepted hb ha
  rw [runSteps_succ hstart, runSteps_one]
  exact step_at hc hwait rfl rfl hst

/-- No loop closes at a rule's first statement (10_state R33). -/
theorem seqAfter_first (op : Op) : seqAfter (.at op 0) = .at op 1 := by
  cases op <;> rfl

/-! ### The index check -/

/-- The operations with a unit maximum are the three unit erases: their rule begins with the index check, they run in
READY, and they are neither READ nor INIT (42_erase R183-R185). -/
theorem unitErase_of_maxIndex {op : Op} {m : Nat} (h : maxIndex op = some m) :
    (ruleOf op)[0]? = some .checkIndex ∧ acceptedIn op .ready = true ∧ op ≠ .read ∧ op ≠ .init := by
  cases op with
  | init | eraseChip | read | program => cases h
  | eraseSector | eraseBlock32K | eraseBlock64K => exact ⟨rfl, rfl, nofun, nofun⟩

theorem pastIndex_iff {op : Op} {m : Nat} (h : maxIndex op = some m) (n : Word) :
    pastIndex op n = true ↔ m < n.toNat := by
  simp only [pastIndex, h, decide_eq_true_eq]

/-- The check lets a legal index pass. -/
theorem stepCheckIndex_legal {op : Op} {s : State} {n : Word} {m : Nat} (hm : maxIndex op = some m)
    (hn : s.index = some n) (h : n.toNat ≤ m) : stepCheckIndex op s = .next (advance s) := by
  have hpast : ¬pastIndex op n = true := by rw [pastIndex_iff hm]; omega
  simp [stepCheckIndex, hn, operand, hpast]

/-- The check raises OUT_OF_RANGE on an index past the unit count. -/
theorem stepCheckIndex_past {op : Op} {s : State} {n : Word} {m : Nat} (hm : maxIndex op = some m)
    (hn : s.index = some n) (h : m < n.toNat) :
    stepCheckIndex op s = .next (raiseError codeOutOfRange .none s) := by
  have hpast : pastIndex op n = true := (pastIndex_iff hm n).mpr h
  simp [stepCheckIndex, hn, operand, hpast]

/-- Settles O39: two steps from the CMD write are the index check of the started operation (`runSteps_two_of_command`),
which passes or raises; the error's whole state is `raiseError_of_not_read`. -/
theorem indexCheckIsExact : Obligations.IndexCheckIsExact := by
  intro s r op code m n hcase hvalid hhost hwait hbusy hready hcursor hindex
  obtain ⟨hmax, i, hdecode, hop⟩ : maxIndex op = some m ∧ ∃ i, decodeCmd code = .ok i ∧ opOf i = some op := by
    rcases hcase with ⟨rfl, rfl, rfl⟩ | ⟨rfl, rfl, rfl⟩ | ⟨rfl, rfl, rfl⟩
    · exact ⟨rfl, .eraseSector, rfl, rfl⟩
    · exact ⟨rfl, .eraseBlock32K, rfl, rfl⟩
    · exact ⟨rfl, .eraseBlock64K, rfl, rfl⟩
  obtain ⟨hfirst, haccept, hread, hinit⟩ := unitErase_of_maxIndex hmax
  have hcheck : runSteps 2 s = stepCheckIndex op (startOp op { s with host := r, cmd := code }) :=
    runSteps_two_of_command hvalid hhost hwait hbusy hdecode hop (by rwa [hready]) hfirst
  refine ⟨fun hlegal => ?_, fun hpast => ?_⟩
  · rw [hcheck.trans (stepCheckIndex_legal hmax hindex hlegal)]
    simp [advance, startOp, seqAfter_first]
  · rw [hcheck.trans (stepCheckIndex_past hmax hindex hpast),
      raiseError_of_not_read (op := op) rfl hread (mayLeaveBusy_outOfRange _)]
    simp [startOp, hinit, hcursor, codeOutOfRange]

/-! ### The unit address -/

/-- An index up to `m` gives the start of its unit, at most that of unit `m`. -/
theorem unitAddr_value {op : Op} {size m top : Nat} {n : Word} (hsize : 2 ^ unitShift op = size)
    (htop : m * size = top) (hfit : top < capacity) (hn : n.toNat ≤ m) :
    (unitAddr op n).toNat = n.toNat * size ∧ (unitAddr op n).toNat ≤ top := by
  have hle : n.toNat * size ≤ top := htop ▸ Nat.mul_le_mul_right size hn
  have haddr : (unitAddr op n).toNat = n.toNat * size := by
    rw [unitAddr, Nat.shiftLeft_eq, hsize, toNat_busAddr (Nat.lt_of_le_of_lt hle hfit)]
  exact ⟨haddr, haddr ▸ hle⟩

/-- Settles O40: the statement sends `unitAddr` of INDEX, whose value `unitAddr_value` says for each unit. -/
theorem eraseAddressIsTheShiftedIndex : Obligations.EraseAddressIsTheShiftedIndex := by
  intro s n hindex
  refine ⟨fun hn => ⟨_, map_operand_eq_ok.mpr ⟨n, hindex, rfl⟩, ?_⟩,
    fun hn => ⟨_, map_operand_eq_ok.mpr ⟨n, hindex, rfl⟩, ?_⟩,
    fun hn => ⟨_, map_operand_eq_ok.mpr ⟨n, hindex, rfl⟩, ?_⟩⟩
  all_goals
    exact unitAddr_value (by decide) (by decide) (by decide) hn

end Sys2Proof.Machine
end

section
/-! PROOFS. The chunker (43_chunker R201-R206): a window list cuts its range at the multiples of CHUNK. -/
namespace Sys2Proof.Machine
open Sys2Proof

/-- The window lists of 43_chunker R200, one rule per iteration of its loop: `ws` cuts the `rem` bytes at `cur` into
windows inside one CHUNK-aligned block each, and a window with bytes left behind it runs to the end of its block. -/
inductive Cuts (c : Nat) : Nat → Nat → Nat → List Window → Prop where
  | done (cur off : Nat) : Cuts c cur off 0 []
  | window {cur off len rem : Nat} {ws : List Window} (hpos : 1 ≤ len) (hblock : cur % c + len ≤ c)
      (hend : rem = 0 ∨ cur % c + len = c) (tail : Cuts c (cur + len) (off + len) rem ws) :
      Cuts c cur off (len + rem) (⟨cur, len, off⟩ :: ws)

theorem cuts_chunksFrom {c fuel cur off rem : Nat} (hc : 0 < c) (hfuel : rem ≤ fuel) :
    Cuts c cur off rem (chunksFrom c fuel cur off rem) := by
  induction fuel generalizing cur off rem with
  | zero =>
    obtain rfl : rem = 0 := by omega
    exact .done cur off
  | succ fuel ih =>
    rcases Nat.eq_zero_or_pos rem with rfl | hrem
    · rw [chunksFrom_nothing]
      exact .done cur off
    · have hlt := Nat.mod_lt cur hc
      rw [chunksFrom_next hrem.ne']
      generalize hlen : min rem (c - cur % c) = len
      obtain ⟨left, rfl⟩ : ∃ left, rem = len + left := Nat.exists_eq_add_of_le (by omega)
      rw [Nat.add_sub_cancel_left]
      exact .window (by omega) (by omega) (by omega) (ih (by omega))

theorem cuts_chunks {c a n : Nat} (hc : 0 < c) : Cuts c a 0 n (chunks c a n) :=
  cuts_chunksFrom hc (Nat.le_refl n)

/-- A run of bytes that ends within the CHUNK-aligned block of its first byte has all its bytes in that block. -/
theorem div_eq_of_block {c a len x : Nat} (hblock : a % c + len ≤ c) (hle : a ≤ x) (hlt : x < a + len) :
    x / c = a / c := by
  have hsplit := Nat.div_add_mod a c
  apply Nat.div_eq_of_lt_le
  · rw [Nat.mul_comm]
    omega
  · rw [Nat.succ_mul, Nat.mul_comm]
    omega

/-- A run of bytes that reaches the end of its block ends where the next block begins. -/
theorem add_eq_of_blockEnd {c a len : Nat} (h : a % c + len = c) : a + len = c * (a / c + 1) := by
  have hsplit := Nat.div_add_mod a c
  rw [Nat.mul_succ]
  omega

section
variable {c cur off rem : Nat} {ws : List Window}

theorem Cuts.addr_head (h : Cuts c cur off rem ws) {w : Window} (hw : ws[0]? = some w) : w.addr = cur := by
  cases h with
  | done => simp at hw
  | window => cases hw; rfl

theorem Cuts.addr_next (h : Cuts c cur off rem ws) {k : Nat} {w v : Window} (hw : ws[k]? = some w)
    (hv : ws[k + 1]? = some v) : v.addr = w.addr + w.len := by
  induction h generalizing k with
  | done => simp at hw
  | window _ _ _ tail ih =>
    cases k with
    | zero => cases hw; exact tail.addr_head hv
    | succ k => exact ih hw hv

/-- Windows do not start before the range, and stand in BUF as far from its start as in the array. -/
theorem Cuts.off_eq (h : Cuts c cur off rem ws) {w : Window} (hw : w ∈ ws) :
    cur ≤ w.addr ∧ w.off = off + (w.addr - cur) := by
  induction h with
  | done => simp at hw
  | window _ _ _ _ ih =>
    rcases List.mem_cons.mp hw with rfl | hw
    · simp
    · obtain ⟨hle, hoff⟩ := ih hw
      omega

theorem Cuts.sum_len (h : Cuts c cur off rem ws) : (ws.map (fun w => w.len)).sum = rem := by
  induction h with
  | done => rfl
  | window _ _ _ _ ih => rw [List.map_cons, List.sum_cons, ih]

theorem Cuts.exists_window (h : Cuts c cur off rem ws) {x : Nat} (hle : cur ≤ x) (hlt : x < cur + rem) :
    ∃ w ∈ ws, w.addr ≤ x ∧ x < w.addr + w.len := by
  induction h with
  | done => omega
  | @window cur off len rem ws _ _ _ _ ih =>
    rcases Nat.lt_or_ge x (cur + len) with hin | hpast
    · exact ⟨_, List.mem_cons_self, hle, hin⟩
    · obtain ⟨w, hw, hin⟩ := ih hpast (by omega)
      exact ⟨w, List.mem_cons_of_mem _ hw, hin⟩

theorem Cuts.ascending (h : Cuts c cur off rem ws) : ws.Pairwise (fun w v => w.addr + w.len ≤ v.addr) := by
  induction h with
  | done => exact .nil
  | window _ _ _ tail ih => exact .cons (fun _ hv => (tail.off_eq hv).1) ih

theorem Cuts.eq_nil_iff (h : Cuts c cur off rem ws) : ws = [] ↔ rem = 0 := by
  cases h with
  | done => exact iff_of_true rfl rfl
  | window hpos => exact iff_of_false (List.cons_ne_nil _ _) (by omega)

theorem Cuts.end_aligned (h : Cuts c cur off rem ws) {k : Nat} {w : Window} (hw : ws[k]? = some w)
    (hk : k + 1 < ws.length) : (w.addr + w.len) % c = 0 := by
  induction h generalizing k with
  | done => simp at hw
  | window _ _ hend tail ih =>
    cases k with
    | zero =>
      cases hw
      have hleft := mt tail.eq_nil_iff.mpr (List.ne_nil_of_length_pos (Nat.lt_of_succ_lt_succ hk))
      simp [add_eq_of_blockEnd (hend.resolve_left hleft)]
    | succ k => exact ih hw (Nat.lt_of_succ_lt_succ hk)

/-- One window per block the range touches. -/
theorem Cuts.length_add_div (h : Cuts c cur off rem ws) (hc : 0 < c) (hrem : 0 < rem) :
    ws.length + cur / c = (cur + rem - 1) / c + 1 := by
  induction h with
  | done => omega
  | @window cur off len rem ws hpos hblock hend tail ih =>
    rcases Nat.eq_zero_or_pos rem with rfl | hleft
    · obtain rfl := tail.eq_nil_iff.mpr rfl
      rw [div_eq_of_block (x := cur + (len + 0) - 1) hblock (by omega) (by omega), List.length_singleton, Nat.add_comm]
    · have hnext : (cur + len) / c = cur / c + 1 := by
        rw [add_eq_of_blockEnd (hend.resolve_left hleft.ne'), Nat.mul_div_cancel_left _ hc]
      have htail := ih hleft
      rw [hnext, Nat.add_assoc cur] at htail
      rw [List.length_cons]
      omega

end

/-- Settles O46: the bounds of a window are `window_of_mem_chunks`, the rest is by induction along the cut. -/
theorem windowsCoverTheRequestExactly : Obligations.WindowsCoverTheRequestExactly := by
  intro c a n hc
  have hcuts : Cuts c a 0 n (chunks c a n) := cuts_chunks hc
  refine ⟨fun w hw => ?_, fun _ => hcuts.addr_head, fun _ _ _ => hcuts.addr_next, fun w hw => ?_, hcuts.sum_len,
    fun _ => hcuts.exists_window, hcuts.ascending⟩
  · obtain ⟨hpos, hblock, -, -⟩ := window_of_mem_chunks hc hw
    exact ⟨hpos, by omega⟩
  · obtain ⟨-, -, hlow, hhigh⟩ := window_of_mem_chunks hc hw
    exact ⟨hlow, by simpa using (hcuts.off_eq hw).2, hhigh⟩

/-- Settles O47: a window before the last ends its block (`Cuts.end_aligned`), and the next one starts where it ends. -/
theorem windowsAreAligned : Obligations.WindowsAreAligned := by
  intro c a n hc
  have hcuts : Cuts c a 0 n (chunks c a n) := cuts_chunks hc
  refine ⟨fun k v hv => ?_, fun _ _ => hcuts.end_aligned, fun w hw x y hx hxy hy => ?_⟩
  · have hk : k + 1 < (chunks c a n).length := (List.getElem?_eq_some_iff.mp hv).1
    have hw : (chunks c a n)[k]? = some (chunks c a n)[k] := List.getElem?_eq_getElem (by omega)
    rw [hcuts.addr_next hw hv]
    exact hcuts.end_aligned hw hk
  · obtain ⟨-, hblock, -, -⟩ := window_of_mem_chunks hc hw
    calc x / c = w.addr / c := div_eq_of_block hblock hx (by omega)
      _ = y / c := (div_eq_of_block hblock (by omega) hy).symm

/-- Settles O48: a window lies in one CHUNK-aligned block, and so in one page (`inOnePage_of_block`). -/
theorem noWindowCrossesAPage : Obligations.NoWindowCrossesAPage := by
  intro c a n w hc hdvd hw
  obtain ⟨hpos, hblock, -, -⟩ := window_of_mem_chunks hc hw
  have hpage : InOnePage w.addr w.len := inOnePage_of_block (Nat.dvd_of_mod_eq_zero hdvd) hblock
  simp only [InOnePage] at hpage
  refine ⟨?_, fun i hi => pageWrap_of_inside (by omega)⟩
  simp only [pageOf, pageSize] at hpage ⊢
  omega

/-- Settles O49: the windows are as many as the blocks the request touches (`Cuts.length_add_div`). -/
theorem windowCount : Obligations.WindowCount := by
  intro c a n hc
  refine ⟨fun hn => (cuts_chunks hc).eq_nil_iff.mpr hn, fun hn => ?_⟩
  have hcount := (cuts_chunks (a := a) hc).length_add_div hc hn
  have hle : a / c ≤ (a + n - 1) / c := Nat.div_le_div_right (by omega)
  omega

end Sys2Proof.Machine
end

section
/-! PROOFS. The bounds check of READ and PROGRAM (44_read R216, 45_program R231). -/
namespace Sys2Proof.Machine
open Sys2Proof

/-! ### An error before the first window -/

/-- No byte of BUF is spoilt before READ has a window (44_read R220). -/
theorem spoilBuffer_of_no_cursor {s : State} (h : s.cursor = none) : spoilBuffer s = s := by
  have hwindow : currentWindow s = none := by rw [currentWindow, h, Option.bind_none]
  simp [spoilBuffer, hwindow]

/-- An error raised before the first window, that cannot leave the device busy (60_exceptions R267, 70_reset R301): the
operation ends with its observable (20_memory R92), and what it does not write stays. -/
theorem raiseError_of_no_cursor {s : State} {op : Op} {code : Byte} (hop : runningOp s = some op)
    (hcursor : s.cursor = none) (hbusy : mayLeaveBusy (some op) code = false) (info : Info) :
    raiseError code info s =
      { s with
        lifecycle := if op = .init then .initFailed else s.lifecycle, result := ⟨code, info⟩, ctrlBusy := false,
        seq := .idle, pollCount := none, idleCount := none, idBytes := none, srByte := none,
        trace := s.trace ++ [.ended ⟨code, info⟩ (endBuffer (some op) s)] } := by
  simp [raiseError, endOp, endBuffer, spoilBuffer_of_no_cursor hcursor, hop, hbusy, hcursor]

/-- The observable of a READ is BUF[0 .. LEN) (20_memory R92). -/
theorem endBuffer_of_read {s : State} {b : Nat} {n : Word} (hbuf : s.buf = some b) (hlen : s.len = some n) :
    endBuffer (some .read) s = memBytes hostDefault s.hostMem b n.toNat := by
  simp only [endBuffer, hbuf, hlen]

/-! ### The check -/

/-- The bounds rule compares unbounded naturals: the sum of two words does not wrap (44_read R216, 00_scope R12). -/
theorem pastCapacity_iff (a n : Word) : pastCapacity a n = true ↔ capacity ≤ a.toNat + n.toNat :=
  decide_eq_true_iff

section
variable {s : State} {a n : Word} (ha : s.addr = some a) (hn : s.len = some n)
include ha hn

/-- The check lets a range inside the array pass. -/
theorem stepCheckRange_inside (h : a.toNat + n.toNat < capacity) : stepCheckRange s = .next (advance s) := by
  have hpast : ¬pastCapacity a n = true := by rw [pastCapacity_iff]; omega
  simp [stepCheckRange, ha, hn, operand, hpast]

/-- The check raises OUT_OF_RANGE on a range that reaches CAPACITY. -/
theorem stepCheckRange_past (h : capacity ≤ a.toNat + n.toNat) :
    stepCheckRange s = .next (raiseError codeOutOfRange .none s) := by
  have hpast : pastCapacity a n = true := (pastCapacity_iff a n).mpr h
  simp [stepCheckRange, ha, hn, operand, hpast]

end

/-- Settles O38: two steps from the CMD write are the bounds check of the started operation (`runSteps_two_of_command`),
which passes or raises; no window has been taken yet, so the error's whole state is `raiseError_of_no_cursor`. -/
theorem boundsCheckIsExact : Obligations.BoundsCheckIsExact := by
  intro s r op code a n hcase hvalid hhost hwait hbusy hready hcursor haddr hlen
  obtain ⟨⟨i, hdecode, hop⟩, hfirst, haccept, hinit⟩ :
      (∃ i, decodeCmd code = .ok i ∧ opOf i = some op) ∧ (ruleOf op)[0]? = some .checkRange ∧
        acceptedIn op .ready = true ∧ op ≠ .init := by
    rcases hcase with ⟨rfl, rfl⟩ | ⟨rfl, rfl⟩
    · exact ⟨⟨.read, rfl, rfl⟩, rfl, rfl, nofun⟩
    · exact ⟨⟨.program, rfl, rfl⟩, rfl, rfl, nofun⟩
  have hcheck : runSteps 2 s = stepCheckRange (startOp op { s with host := r, cmd := code }) :=
    runSteps_two_of_command hvalid hhost hwait hbusy hdecode hop (by rwa [hready]) hfirst
  refine ⟨fun hinside => ?_, fun hpast => ⟨endBuffer (some op) s, ?_, ?_⟩⟩
  · rw [hcheck.trans (stepCheckRange_inside haddr hlen hinside)]
    simp [advance, startOp, seqAfter_first]
  · rw [hcheck.trans (stepCheckRange_past haddr hlen hpast),
      raiseError_of_no_cursor (op := op)]
    · simp [startOp, hinit, endBuffer, codeOutOfRange]
    exacts [rfl, hcursor, mayLeaveBusy_outOfRange _]
  · rintro b rfl hbuf
    exact endBuffer_of_read hbuf hlen

end Sys2Proof.Machine
end

section
/-! PROOFS. The test of the status poll (46_status_poll R251): bit 0 of the status byte decides, then the bound. -/
namespace Sys2Proof.Machine
open Sys2Proof

theorem boundReached_of_le {k n : Nat} (h : k ≤ n) : boundReached (some k) n = true :=
  decide_eq_true h

section
variable {s : State} {b : Byte} {n : Nat} (hsr : s.srByte = some b) (hcount : s.pollCount = some n)
include hsr hcount

/-- A status byte with WIP = 0 ends the poll. -/
theorem stepPollTest_clear (hwip : wip b = false) (op : Op) (pc : Nat) :
    stepPollTest op pc s = .next (advance { s with srByte := none, pollCount := none }) := by
  simp [stepPollTest, hsr, hcount, hwip]

/-- A status byte with WIP = 1 counts, and below the bound the status is read again. -/
theorem stepPollTest_again (hwip : wip b = true) (hbelow : boundReached s.cfg.maxPolls (n + 1) = false) (op : Op)
    (pc : Nat) : stepPollTest op pc s = .next (gotoPc op (pc - 1) { s with pollCount := some (n + 1) }) := by
  simp [stepPollTest, hsr, hcount, hwip, hbelow]

/-- The status byte with WIP = 1 that reaches the bound raises TIMEOUT(POLL). -/
theorem stepPollTest_bound (hwip : wip b = true) (hreached : boundReached s.cfg.maxPolls (n + 1) = true) (op : Op)
    (pc : Nat) :
    stepPollTest op pc s = .next (raiseError codeTimeout (.timeout .poll) { s with pollCount := some (n + 1) }) := by
  simp [stepPollTest, hsr, hcount, hwip, hreached]

end

/-- Settles O44: the step is the poll's test, which reads the byte through `wip`, its bit 0; one `stepPollTest` lemma
for each of its three answers. -/
theorem pollTestsBitZeroAlone : Obligations.PollTestsBitZeroAlone := by
  intro s op pc n b hrun hst hsr hcount
  obtain ⟨hvalid, hwait, hbusy, hseq⟩ := hrun
  have htest : step s = stepPollTest op (pc + 1) s := step_at hvalid hwait hbusy hseq hst
  refine ⟨fun hwip => ?_, fun hwip hbelow => ?_, fun hwip k hk hle => ?_⟩
  · rw [htest, stepPollTest_clear hsr hcount hwip]
    simp [advance, hseq, seqAfter]
  · rw [htest, stepPollTest_again hsr hcount hwip (boundReached_eq_false hbelow)]
    simp [gotoPc]
  · have hreached : boundReached s.cfg.maxPolls (n + 1) = true := by rw [hk, boundReached_of_le hle]
    refine ⟨_, htest.trans (stepPollTest_bound hsr hcount hwip hreached op (pc + 1)), ?_⟩
    rw [busEvents_raiseError]
    simp [codeTimeout]

end Sys2Proof.Machine
end

section
/-! PROOFS. The exceptions (60_exceptions): what raising an error leaves (R267), TRANSPORT_ERROR (R261), and the two
errors of the decode of CMD (R265, R266). -/
namespace Sys2Proof.Machine
open Sys2Proof

/-! ### Raising in a running operation -/

/-- Settles O36: `raiseError` field by field; of the two things it tests, the running INIT decides LIFECYCLE, and the end
it adds to the trace is no bus event (`busEvents_raiseError`). -/
theorem raiseEndsTheOperation : Obligations.RaiseEndsTheOperation := by
  intro s code info
  have hinit (h : runningOp s = some .init) : (raiseError code info s).lifecycle = .initFailed := by
    rw [raiseError_lifecycle, if_pos h]
  have hother (h : runningOp s ≠ some .init) : (raiseError code info s).lifecycle = s.lifecycle := by
    rw [raiseError_lifecycle, if_neg h]
  simp only [raiseError_result, raiseError_seq, raiseError_ctrlBusy, busEvents_raiseError, raiseError_busWidth,
    raiseError_addr, raiseError_len, raiseError_index, raiseError_buf, raiseError_dev, raiseError_txIn,
    raiseError_busyIn, raiseError_cursor, raiseError_idBytes, raiseError_srByte, raiseError_pollCount,
    raiseError_idleCount, and_self, and_true, true_and]
  exact ⟨hinit, hother⟩

/-- The words of a bus command are its descriptor (30_encoding R105). -/
theorem encode_bus {i : Instr} (hi : opOf i = none) (c : Config) (w : Width) :
    encode c w i = .desc (descriptor c w i) := by
  cases i with
  | init | eraseChip | eraseSector | eraseBlock32K | eraseBlock64K | read | program => simp [opOf] at hi
  | rdid | wren | qpien | srp | rdsr | frqio | pp | ser | be32k | be64k | cer => rfl

/-- Settles O27: the failed transaction logs its one event and raises (`transact_err`), and `raiseEndsTheOperation` says
what that leaves. -/
theorem transportErrorEndsTheOperation : Obligations.TransportErrorEndsTheOperation := by
  intro s d r i e k hi hwf hvalid htx hfail
  have hexec := exec_bus (s := s) hi (busInside_of_wellFormed hvalid hwf)
  rw [transact_err htx hfail] at hexec
  obtain ⟨hresult, hinit, hother, hseq, hbusy, htrace, hwidth, haddr, hlen, hindex, hbuf, _, htxIn, hbusyIn, _⟩ :=
    raiseEndsTheOperation _ _ _
  refine ⟨_, _, hexec, encode_bus hi _ _, hresult, hbusy, hseq, ?_, hinit, hother, hwidth, haddr, hlen, hindex, hbuf,
    htxIn, hbusyIn⟩
  rw [htrace, busEvents_append]
  rfl

/-! ### Refusing a CMD write -/

/-- The end of an operation is no bus event (20_memory R92). -/
theorem busEvents_endOp (op : Option Op) (r : Result) (s : State) :
    busEvents (endOp op r s).trace = busEvents s.trace := by
  rw [endOp_trace, busEvents_append]
  exact List.append_nil _

/-- INIT is not accepted in READY, and the other operations only there (30_encoding R103). -/
theorem acceptedIn_eq_false {op : Op} {l : Lifecycle} (h : op = .init ∧ l = .ready ∨ op ≠ .init ∧ l ≠ .ready) :
    acceptedIn op l = false := by
  rcases h with ⟨rfl, rfl⟩ | ⟨hop, hl⟩
  · rfl
  · cases op with
    | init => exact absurd rfl hop
    | eraseChip | eraseSector | eraseBlock32K | eraseBlock64K | read | program => simp [acceptedIn, hl]

/-- An operation that is not accepted ends at once with STATE_ERROR (60_exceptions R265). -/
theorem issueOp_rejected {op : Op} {s : State} (hb : s.ctrlBusy = false) (ha : acceptedIn op s.lifecycle = false) :
    issueOp op s = .next (endOp (some op) ⟨codeStateError, .lifecycle s.lifecycle⟩ s) := by
  simp [issueOp, hb, ha]

/-- Settles O8: the operation is not accepted (`acceptedIn_eq_false`), and `endOp` writes only RESULT, CTRL_BUSY, SEQ,
the registers of a running operation, and the end in the trace. -/
theorem wrongLifecycleIsStateError : Obligations.WrongLifecycleIsStateError := by
  intro s i op hi hbusy hwrong
  have hexec : exec i s = .next (endOp (some op) ⟨codeStateError, .lifecycle s.lifecycle⟩ s) := by
    rw [exec_op hi, issueOp_rejected hbusy (acceptedIn_eq_false hwrong)]
  exact ⟨_, hexec, rfl, rfl, rfl, rfl, busEvents_endOp _ _ _, rfl, rfl, rfl, rfl, rfl, rfl, rfl, rfl, rfl, rfl⟩

/-- A byte whose upper half is not 0, or whose lower half is no OP, does not decode (30_encoding R103). -/
theorem decodeCmd_reserved {b : Byte} (h : b.toNat / 16 ≠ 0 ∨ b.toNat % 16 = 0 ∨ 8 ≤ b.toNat % 16) :
    ∃ err, decodeCmd b = .error err := by
  cases hd : decodeCmd b with
  | error err => exact ⟨err, rfl⟩
  | ok i =>
    obtain ⟨_, hlow, hhigh⟩ := code_of_decodeCmd hd
    omega

/-- A CMD write whose byte does not decode ends at once with ILLEGAL_COMMAND, for no operation (60_exceptions R266). -/
theorem step_illegalCommand {s : State} {b : Byte} {r : List HostEvent} {err : DecodeError} (hc : s.cfg.Valid)
    (hh : s.host = .act (.writeCmd b) :: r) (hb : s.ctrlBusy = false) (hd : decodeCmd b = .error err) :
    step s = .next (endOp none ⟨codeIllegalCommand, .command b⟩ { s with host := r, cmd := b }) := by
  simp [step, hc, hh, hostAct, writeCommand, hb, hd]

/-- Settles O9: the byte does not decode (`decodeCmd_reserved`), so the step only ends with the error. -/
theorem illegalCommandIsRaised : Obligations.IllegalCommandIsRaised := by
  intro s b r hvalid hhost hbusy hreserved
  obtain ⟨err, hdecode⟩ := decodeCmd_reserved hreserved
  exact ⟨_, step_illegalCommand hvalid hhost hbusy hdecode, rfl, rfl, rfl, rfl, busEvents_endOp _ _ _, rfl, rfl, rfl,
    rfl, rfl, rfl, rfl, rfl⟩

end Sys2Proof.Machine
end

section
/-! PROOFS. What the host may not do while an operation runs (70_reset R304): write CMD, an operand register, or a byte
of BUF. -/
namespace Sys2Proof.Machine
open Sys2Proof

/-- A CMD write while CTRL_BUSY = 1 is refused before its byte is looked at (30_encoding R102). -/
theorem writeCommand_busy {s : State} (hb : s.ctrlBusy = true) (b : Byte) :
    writeCommand b s = .refused .commandWhileBusy := if_pos hb

theorem writeOperand_busy {s : State} (hb : s.ctrlBusy = true) (t : State) :
    writeOperand s t = .refused .operandWhileBusy := if_pos hb

/-- Two ranges overlap as soon as one byte lies in both. -/
theorem touchesBuffer_of_byte_in_buffer {s : State} {b a n : Nat} {m : Word} (hbuf : s.buf = some b)
    (hlen : s.len = some m) (h : ∃ k, k < n ∧ b ≤ a + k ∧ a + k < b + m.toNat) : touchesBuffer s a n = true := by
  obtain ⟨k, hk, hlow, hhigh⟩ := h
  have hoverlap : 0 < n ∧ 0 < m.toNat ∧ a < b + m.toNat ∧ b < a + n := by omega
  simpa only [touchesBuffer, hbuf, hlen, decide_eq_true_eq] using hoverlap

theorem hostStore_busy {s : State} {a : Nat} {bs : List Byte} (hb : s.ctrlBusy = true)
    (ht : touchesBuffer s a bs.length = true) : hostStore a bs s = .refused .bufferWhileBusy :=
  if_pos (by rw [hb, ht]; rfl)

/-- Settles O10: CMD and the operand registers are refused on CTRL_BUSY alone, a store because one byte of it in BUF
makes it touch BUF (`touchesBuffer_of_byte_in_buffer`). -/
theorem hostActionsWhileBusyAreRefused : Obligations.HostActionsWhileBusyAreRefused := by
  intro s hbusy
  have hoperand := writeOperand_busy hbusy
  exact ⟨writeCommand_busy hbusy, fun _ => hoperand _, fun _ => hoperand _, fun _ => hoperand _, fun _ => hoperand _,
    fun _ _ _ _ hbuf hlen hbyte => hostStore_busy hbusy (touchesBuffer_of_byte_in_buffer hbuf hlen hbyte)⟩

end Sys2Proof.Machine
end

section
/-! PROOFS. The two directions of the encoding (30_encoding sections 1 to 3). -/
namespace Sys2Proof.Machine
open Sys2Proof

/-- The word of a host operation decodes to it, at any width: it has none (30_encoding R101). -/
theorem decode_encode_hostOp {i : Instr} {op : Op} (hi : opOf i = some op) (c : Config) (w : Width) :
    decode c (encode c w i) = .ok i := by
  cases i with
  | init | eraseChip | eraseSector | eraseBlock32K | eraseBlock64K | read | program => rfl
  | rdid | wren | qpien | srp | rdsr | frqio | pp | ser | be32k | be64k | cer => simp [opOf] at hi

/-- A host operation has no operand and no width to be wrong (30_encoding R104). -/
theorem hostOp_legal {i : Instr} {op : Op} (hi : opOf i = some op) (c : Config) (w : Width) :
    wellFormed c i = true ∧ widthLegal w i = true := by
  cases i with
  | init | eraseChip | eraseSector | eraseBlock32K | eraseBlock64K | read | program => exact ⟨rfl, rfl⟩
  | rdid | wren | qpien | srp | rdsr | frqio | pp | ser | be32k | be64k | cer => simp [opOf] at hi

/-- Settles O1: a host operation's word is one of seven bytes, a bus command's is its descriptor
(`decodeDesc_descriptor`). -/
theorem decodeOfEncode : Obligations.DecodeOfEncode := by
  intro c w i hc hwf hw
  cases hi : opOf i with
  | none => rw [encode_bus hi]; exact decodeDesc_descriptor hc hi hwf hw
  | some op => exact decode_encode_hostOp hi c w

/-- A byte that names a command is that command's (30_encoding R110). -/
theorem eq_commandByte_of_busName? {c : Config} {b : Byte} {n : BusName} (h : busName? c b = some n) :
    b = commandByte c n := by
  unfold busName? at h
  repeat' split at h
  all_goals cases h
  all_goals assumption

/-- A descriptor that decodes passed every check of `decodeDesc` (30_encoding R108, R110). -/
theorem decodeDesc_ok {c : Config} {t : Desc} {i : Instr} (h : decodeDesc c t = .ok i) :
    ∃ n, t.cmd = commandByte c n ∧ hasFormat (busFormat n) t = true ∧ payloadLegal c n t = true ∧
      i = busInstr n t ∧ wellFormed c i = true ∧ widthLegal t.w i = true := by
  unfold decodeDesc at h
  split at h
  · cases h
  next n hn =>
    split at h
    · cases h
    next hf =>
      split at h
      · cases h
      next hw =>
        split at h
        · cases h
        next hl =>
          cases h
          simp only [Bool.not_eq_true', Bool.not_eq_false, Bool.and_eq_true] at hf hw hl
          exact ⟨n, eq_commandByte_of_busName? hn, hf, hl.2, rfl, hl.1, hw⟩

/-- A descriptor of a command's byte, format and payload is the one written for the instruction read off it: the format
leaves no field open that the instruction does not hold (30_encoding R108). -/
theorem encode_busInstr {c : Config} {t : Desc} {n : BusName} (hcmd : t.cmd = commandByte c n)
    (hf : hasFormat (busFormat n) t = true) (hp : payloadLegal c n t = true) :
    encode c t.w (busInstr n t) = .desc t := by
  obtain ⟨w, cmd, addr, alt, dummy, tx, rx⟩ := t
  cases n with
  | srp =>
    simp only [hasFormat, busFormat, Bool.and_eq_true, Option.isNone_iff_eq_none, beq_iff_eq,
      payloadLegal] at hcmd hf hp
    simp [busInstr, encode, bareDesc, commandByte, hcmd, hf, hp]
  | frqio | pp | ser | be32k | be64k =>
    simp only [hasFormat, busFormat, Bool.and_eq_true, Option.isNone_iff_eq_none, Option.isSome_iff_exists, beq_iff_eq,
      List.isEmpty_iff] at hcmd hf
    simp only [and_assoc] at hf
    obtain ⟨⟨a, rfl⟩, hf⟩ := hf
    simp [busInstr, encode, bareDesc, commandByte, hcmd, hf]
  | rdid | wren | qpien | rdsr | cer =>
    simp only [hasFormat, busFormat, Bool.and_eq_true, Option.isNone_iff_eq_none, beq_iff_eq, List.isEmpty_iff]
      at hcmd hf
    simp [busInstr, encode, bareDesc, commandByte, hcmd, hf]

/-- Settles O2: a CMD byte that decodes is the code of its operation (`encode_of_decodeCmd`), a descriptor that decodes
is the one of its instruction (`encode_busInstr`). -/
theorem encodeOfDecode : Obligations.EncodeOfDecode := by
  intro c ws i h
  cases ws with
  | cmd b =>
    obtain ⟨⟨op, hi⟩, _⟩ := code_of_decodeCmd h
    obtain ⟨hwf, hw⟩ := hostOp_legal hi c .w1
    exact ⟨hwf, .w1, hw, encode_of_decodeCmd h c .w1⟩
  | desc t =>
    obtain ⟨n, hcmd, hf, hp, rfl, hwf, hw⟩ := decodeDesc_ok h
    exact ⟨hwf, t.w, hw, encode_busInstr hcmd hf hp⟩

/-- Settles O4: closed terms, each decoded by evaluation. -/
theorem writtenDescriptorsDecode : Obligations.WrittenDescriptorsDecode := by
  unfold Obligations.WrittenDescriptorsDecode
  decide

end Sys2Proof.Machine
end

section
/-! PROOFS. The two ways a bus command can end, and what each leaves of the data: the device, the host's memory,
RESULT. -/
namespace Sys2Proof.Machine
open Sys2Proof

/-- The transport returns as many bytes as the descriptor asks for (40_bus_primitives R140). -/
theorem transactDevice_rx_length {d : TxDraw} {t : Desc} {anytime aborted : Bool} {eff : DevEffect} {dev : Device}
    {rx : List Byte} (h : (transactDevice d t anytime aborted eff dev).2 = .ok rx) : rx.length = t.rx := by
  unfold transactDevice at h
  dsimp only at h
  split at h <;> cases h
  exact fitBytes_length _ _

/-- A bus command that answers a next state took its transaction's draw and then stored the received bytes and advanced,
or raised TRANSPORT_ERROR (40_bus_primitives R140, R141). -/
theorem exec_bus_cases {s t : State} {i : Instr} (hi : opOf i = none) (h : exec i s = .next t) :
    busInside i ∧
      ∃ u, u = afterTransact (descriptor s.cfg s.busWidth i) (busAnytime i) (busEffect s.cfg i) s ∧
        ((∃ rx, rx.length = (descriptor s.cfg s.busWidth i).rx ∧ t = advance (busReceiver i rx u)) ∨
          ∃ info, t = raiseError codeTransportError info u) := by
  obtain ⟨hin, rfl⟩ := exec_bus_next hi h
  obtain ⟨rx, hrx, ht⟩ | ⟨e, _, ht⟩ := transact_cases i (busAnytime i) (busEffect s.cfg i) (busReceiver i) s
  · exact ⟨hin, _, rfl, .inl ⟨rx, transactDevice_rx_length hrx, ht⟩⟩
  · exact ⟨hin, _, rfl, .inr ⟨_, ht⟩⟩

/-- RDID alone writes ID_BYTES (41_init R162). -/
theorem busReceiver_idBytes {i : Instr} (h : i ≠ .rdid) (rx : List Byte) (s : State) :
    (busReceiver i rx s).idBytes = s.idBytes := by
  cases i with
  | rdid => exact absurd rfl h
  | frqio => simp [busReceiver]
  | init | eraseChip | eraseSector | eraseBlock32K | eraseBlock64K | read | program | wren | qpien | srp | rdsr |
  pp | ser
  | be32k | be64k | cer => rfl

/-- RDSR alone writes SR_BYTE (46_status_poll R250). -/
theorem busReceiver_srByte {i : Instr} (h : i ≠ .rdsr) (rx : List Byte) (s : State) :
    (busReceiver i rx s).srByte = s.srByte := by
  cases i with
  | rdsr => exact absurd rfl h
  | frqio => simp [busReceiver]
  | init | eraseChip | eraseSector | eraseBlock32K | eraseBlock64K | read | program | rdid | wren | qpien | srp |
  pp | ser
  | be32k | be64k | cer => rfl

/-! ### The data -/

/-- The part of `Inv` that is not about SEQ. -/
structure DataInv (s : State) : Prop where
  device   : DeviceInv s.dev
  hostForm : memWf hostDefault s.hostMem
  resultOk : s.result.code.toNat ≤ 6

theorem Inv.data {s : State} (h : Inv s) : DataInv s := ⟨h.device, h.hostForm, h.resultOk⟩

/-- The three fields are all that the data invariant reads. -/
theorem DataInv.congr {s t : State} (h : DataInv s) (hdev : t.dev = s.dev) (hmem : t.hostMem = s.hostMem)
    (hres : t.result = s.result) : DataInv t :=
  ⟨hdev ▸ h.device, hmem ▸ h.hostForm, hres ▸ h.resultOk⟩

theorem DataInv.endOp {s : State} (h : DataInv s) (op : Option Op) {r : Result} (hr : r.code.toNat ≤ 6) :
    DataInv (endOp op r s) :=
  ⟨h.device, h.hostForm, hr⟩

theorem DataInv.raiseError {s : State} (h : DataInv s) {code : Byte} (hcode : code.toNat ≤ 6) (info : Info) :
    DataInv (raiseError code info s) :=
  ⟨by simpa using h.device, by simpa using memWf_spoilBuffer h.hostForm, by simpa using hcode⟩

/-- A bus command keeps the data invariant: the device's by `deviceInv_transactDevice`. -/
theorem DataInv.exec_bus {s t : State} {i : Instr} (h : DataInv s) (hi : opOf i = none) (ht : exec i s = .next t) :
    DataInv t := by
  obtain ⟨hin, u, rfl, hend⟩ := exec_bus_cases hi ht
  have hu : DataInv (afterTransact (descriptor s.cfg s.busWidth i) (busAnytime i) (busEffect s.cfg i) s) :=
    ⟨by simpa using deviceInv_transactDevice (tame_busEffect hin) h.device _ _ _ _, by simpa using h.hostForm,
      by simpa using h.resultOk⟩
  obtain ⟨rx, _, rfl⟩ | ⟨info, rfl⟩ := hend
  · exact ⟨by simpa using hu.device, by simpa using memWf_busReceiver hu.hostForm i rx, by simpa using hu.resultOk⟩
  · exact hu.raiseError (by decide) info

theorem DataInv.runStmt {s t : State} {op : Op} {pc : Nat} {st : Stmt} (h : DataInv s)
    (hs : runStmt op pc st s = .next t) : DataInv t := by
  cases st with
  | issue b =>
    obtain ⟨i, hi, hexec⟩ := runStmt_issue_next hs
    exact (h.congr (t := beforeIssue b s) (by simp) (by simp) (by simp)).exec_bus (opOf_busCommand hi) hexec
  | setWidth w => cases hs; exact h.congr rfl rfl rfl
  | waitIdle =>
    cases hs
    have hq : DataInv (queryBusy s) := h.congr (by simp) (by simp) (by simp)
    obtain ⟨_, ht⟩ | ⟨_, ⟨_, ht⟩ | ⟨_, ht⟩⟩ := stepWaitIdle_cases s <;> rw [ht]
    · exact hq.congr rfl rfl rfl
    · exact hq.raiseError (by decide) _
    · exact hq.congr rfl rfl rfl
  | checkId =>
    obtain ⟨_, _, ⟨_, rfl⟩ | ⟨_, rfl⟩⟩ := stepCheckId_next hs
    · exact h.congr rfl rfl rfl
    · exact h.raiseError (by decide) _
  | checkIndex =>
    obtain ⟨_, _, ⟨_, rfl⟩ | ⟨_, rfl⟩⟩ := stepCheckIndex_next hs
    · exact h.raiseError (by decide) _
    · exact h.congr rfl rfl rfl
  | checkRange =>
    obtain ⟨_, _, _, _, ⟨_, rfl⟩ | ⟨_, rfl⟩⟩ := stepCheckRange_next hs
    · exact h.raiseError (by decide) _
    · exact h.congr rfl rfl rfl
  | forWindow =>
    obtain ⟨_, _, _, _, ⟨_, rfl⟩ | ⟨_, rfl⟩⟩ := stepForWindow_next hs <;> exact h.congr rfl rfl rfl
  | pollTest =>
    obtain ⟨_, n, _, _, ⟨_, rfl⟩ | ⟨_, _, rfl⟩ | ⟨_, _, rfl⟩⟩ := stepPollTest_next hs
    · exact h.congr rfl rfl rfl
    · exact (h.congr (t := { s with pollCount := some (n + 1) }) rfl rfl rfl).raiseError (by decide) _
    · exact h.congr rfl rfl rfl
  | finishInit => cases hs; exact (h.congr (t := { s with lifecycle := .ready }) rfl rfl rfl).endOp _ (by decide)
  | finish => cases hs; exact h.endOp _ (by decide)

/-- A CMD write starts an operation, or ends in STATE_ERROR or ILLEGAL_COMMAND (60_exceptions R265, R266). -/
theorem writeCommand_next_code {b : Byte} {s t : State} (h : writeCommand b s = .next t) :
    (∃ op, acceptedIn op s.lifecycle = true ∧ t = startOp op { s with cmd := b }) ∨
      ∃ op r, r.code.toNat ≤ 6 ∧ t = endOp op r { s with cmd := b } := by
  unfold writeCommand at h
  split at h
  · cases h
  · split at h
    next i hi =>
      obtain ⟨⟨op, hop⟩, _⟩ := code_of_decodeCmd hi
      rw [exec_op hop] at h
      obtain ⟨_, ⟨ha, rfl⟩ | ⟨_, rfl⟩⟩ := issueOp_next h
      · exact .inl ⟨op, ha, rfl⟩
      · exact .inr ⟨_, ⟨codeStateError, _⟩, (by decide : codeStateError.toNat ≤ 6), rejectCommand_eq ..⟩
    · cases h
      exact .inr ⟨_, ⟨codeIllegalCommand, _⟩, (by decide : codeIllegalCommand.toNat ≤ 6), rejectCommand_eq ..⟩

theorem DataInv.hostAct {s t : State} {a : HostAction} (h : DataInv s) (hs : hostAct a s = .next t) : DataInv t := by
  cases a with
  | writeCmd b =>
    have hcmd : DataInv { s with cmd := b } := h.congr rfl rfl rfl
    obtain ⟨op, _, rfl⟩ | ⟨op, r, hr, rfl⟩ := writeCommand_next_code hs
    · exact hcmd.congr rfl rfl rfl
    · exact hcmd.endOp op hr
  | writeAddr | writeLen | writeIndex | writeBuf => obtain ⟨_, rfl⟩ := writeOperand_next hs; exact h.congr rfl rfl rfl
  | store => obtain ⟨_, rfl⟩ := hostStore_next hs; exact ⟨h.device, memWf_memWrite h.hostForm _ _, h.resultOk⟩
  | readReg => obtain ⟨_, _, rfl⟩ := readRegister_next hs; exact h.congr rfl rfl rfl
  | reset => cases hs; exact ⟨h.device, h.hostForm, (by decide : codeOk.toNat ≤ 6)⟩
  | powerCycle sr p => cases hs; exact ⟨deviceInv_powerCycle h.device sr p, h.hostForm, h.resultOk⟩

end Sys2Proof.Machine
end

section
/-! PROOFS. The invariant of the sequencer (10_state R33-R37, 40_bus_primitives R148): what each statement needs holds
when SEQ reaches it. -/
namespace Sys2Proof.Machine
open Sys2Proof

/-! ### The operands of a running operation -/

/-- `t` has the operands, the width, the window cursor and the parameters of `s`. -/
structure SameOperands (s t : State) : Prop where
  lifecycle : t.lifecycle = s.lifecycle
  width     : t.busWidth = s.busWidth
  cursor    : t.cursor = s.cursor
  addr      : t.addr = s.addr
  len       : t.len = s.len
  index     : t.index = s.index
  cfg       : t.cfg = s.cfg

section
variable {s t : State} (h : SameOperands s t)
include h

theorem SameOperands.rangeChecked : RangeChecked t ↔ RangeChecked s := by
  simp only [RangeChecked, h.addr, h.len]

theorem SameOperands.cursorOfOperands (c : Cursor) : CursorOfOperands t c ↔ CursorOfOperands s c := by
  simp only [CursorOfOperands, h.addr, h.len, h.cfg]

theorem SameOperands.currentWindow : currentWindow t = currentWindow s := by
  simp only [Machine.currentWindow, h.cursor]

/-- What a statement needs is the operands, and the bytes read so far. -/
theorem SameOperands.atStatement {op : Op} {pc : Nat} (hid : t.idBytes = s.idBytes) (hsr : t.srByte = s.srByte)
    (hpoll : t.pollCount = s.pollCount) (hat : AtStatement s op pc) : AtStatement t op pc := by
  cases op <;>
    simpa only [AtStatement, h.rangeChecked, h.cursorOfOperands, h.currentWindow, h.lifecycle, h.width, h.cursor,
      h.index, hid, hsr, hpoll] using hat

end

/-! ### From a statement to the next -/

/-- The statements that write no operand of `AtStatement`: a bus command, a wait, the identity gate, a poll's test. -/
def keepsOperands : Stmt → Bool
  | .issue _ | .waitIdle | .checkId | .pollTest => true
  | .setWidth _ | .checkIndex | .checkRange | .forWindow | .finishInit | .finish => false

/-- After such a statement the next one has what it needs: RDID has left ID_BYTES, RDSR what the poll's test reads. -/
theorem atStatement_next {s t : State} {op : Op} {pc : Nat} {st : Stmt} (hat : AtStatement s op pc)
    (hst : (ruleOf op)[pc]? = some st) (hkeep : keepsOperands st = true) (h : SameOperands s t)
    (hid : st = .issue .rdid ∨ s.idBytes ≠ none → t.idBytes ≠ none)
    (hsr : st = .issue .rdsr → t.srByte ≠ none ∧ t.pollCount ≠ none) : AtStatement t op (nextPc op pc) := by
  have hlt : pc < (ruleOf op).length := (List.getElem?_eq_some_iff.mp hst).1
  cases op <;> simp only [ruleOf, eraseTail, List.length_cons, List.length_nil] at hlt hst
  all_goals
    simp only [AtStatement, h.rangeChecked, h.cursorOfOperands, h.currentWindow, h.lifecycle, h.width, h.cursor,
      h.index] at hat ⊢
    interval_cases pc <;> cases hst <;> simp_all [keepsOperands, nextPc]

/-- Width 1 is set before INIT's first transaction, width 4 after QPIEN (41_init R161, R165). -/
theorem atStatement_setWidth {s : State} {op : Op} {pc : Nat} {w : Width} (hat : AtStatement s op pc)
    (hst : (ruleOf op)[pc]? = some (.setWidth w)) :
    AtStatement (stepSetWidth w s) op (nextPc op pc) := by
  obtain ⟨rfl, ⟨rfl, rfl⟩ | ⟨rfl, rfl⟩⟩ := setWidth_of_rule hst <;>
    simp_all [AtStatement, nextPc]

/-- The index check is the first statement of a unit erase (42_erase R187). -/
theorem checkIndex_of_rule {op : Op} {pc : Nat} (h : (ruleOf op)[pc]? = some .checkIndex) :
    pc = 0 ∧ (op = .eraseSector ∨ op = .eraseBlock32K ∨ op = .eraseBlock64K) := by
  have hlt : pc < (ruleOf op).length := (List.getElem?_eq_some_iff.mp h).1
  cases op <;> simp only [ruleOf, eraseTail, List.length_cons, List.length_nil] at hlt h
  all_goals
    interval_cases pc <;> cases h <;> simp

/-- Past its check an index is one of a unit (42_erase R187). -/
theorem atStatement_checkIndex {s : State} {op : Op} {pc : Nat} {n : Word} (hat : AtStatement s op pc)
    (hst : (ruleOf op)[pc]? = some .checkIndex) (hn : s.index = some n) (hpast : pastIndex op n = false) :
    AtStatement (advance s) op (nextPc op pc) := by
  obtain ⟨rfl, rfl | rfl | rfl⟩ := checkIndex_of_rule hst <;>
    simp_all [AtStatement, nextPc, pastIndex, maxIndex]

/-- The bounds check and the head of the window loop stand first and second in READ and in PROGRAM (10_state R33). -/
theorem transfer_of_rule {op : Op} {pc : Nat} {st : Stmt} (h : (ruleOf op)[pc]? = some st) :
    (st = .checkRange → pc = 0 ∧ (op = .read ∨ op = .program)) ∧
      (st = .forWindow → pc = 1 ∧ (op = .read ∨ op = .program)) := by
  have hlt : pc < (ruleOf op).length := (List.getElem?_eq_some_iff.mp h).1
  cases op <;> simp only [ruleOf, eraseTail, List.length_cons, List.length_nil] at hlt h
  all_goals
    interval_cases pc <;> cases h <;> simp

/-- Past its check a range lies inside the array (44_read R216, 45_program R231). -/
theorem atStatement_checkRange {s : State} {op : Op} {pc : Nat} {a n : Word} (hat : AtStatement s op pc)
    (hst : (ruleOf op)[pc]? = some .checkRange) (ha : s.addr = some a) (hn : s.len = some n)
    (hpast : pastCapacity a n = false) : AtStatement (advance s) op (nextPc op pc) := by
  have hrange : RangeChecked (advance s) :=
    ⟨a, n, ha, hn, by rwa [pastCapacity, decide_eq_false_iff_not, Nat.not_le] at hpast⟩
  obtain ⟨rfl, rfl | rfl⟩ := (transfer_of_rule hst).1 rfl <;>
    simp_all [AtStatement, nextPc]

/-- The loop's cursor is the chunker's list for the operands, at its start and at each window (10_state R34). -/
theorem cursorOfOperands_nextCursor {s t : State} {a n : Word} (hcursor : ∀ c, s.cursor = some c → CursorOfOperands s c)
    (ha : s.addr = some a) (hn : s.len = some n) (hta : t.addr = some a) (htn : t.len = some n) (hcfg : t.cfg = s.cfg) :
    CursorOfOperands t (nextCursor a n s) := by
  refine ⟨a, n, hta, htn, ?_⟩
  rw [hcfg]
  unfold nextCursor
  split
  · rfl
  next c hc =>
    obtain ⟨a', n', ha', hn', hwin⟩ := hcursor c hc
    obtain rfl : a = a' := Option.some.inj (ha.symm.trans ha')
    obtain rfl : n = n' := Option.some.inj (hn.symm.trans hn')
    exact hwin

/-- Inside the loop there is a current window; past it there is the list it went through. -/
theorem atStatement_forWindow {s t : State} {op : Op} {pc : Nat} {a n : Word} (hat : AtStatement s op pc)
    (hst : (ruleOf op)[pc]? = some .forWindow) (ha : s.addr = some a) (hn : s.len = some n)
    (ht : t = { s with cursor := some (nextCursor a n s), seq := t.seq }) :
    AtStatement t op (loopExit op) ∧
      ((nextCursor a n s).k < (nextCursor a n s).windows.length → AtStatement t op (nextPc op pc)) := by
  have hcursor (h : ∀ c, s.cursor = some c → CursorOfOperands s c) : CursorOfOperands t (nextCursor a n s) :=
    cursorOfOperands_nextCursor h ha hn (by rw [ht, ha]) (by rw [ht, hn]) (by rw [ht])
  have hrange (h : RangeChecked s) : RangeChecked t := by rw [ht]; exact h
  have hwindow : currentWindow t = (nextCursor a n s).windows[(nextCursor a n s).k]? := by rw [ht]; rfl
  have hready : t.lifecycle = s.lifecycle ∧ t.busWidth = s.busWidth ∧ t.cursor = some (nextCursor a n s) := by
    rw [ht]; exact ⟨rfl, rfl, rfl⟩
  obtain ⟨hlife, hwidth, hcur⟩ := hready
  clear ht
  obtain ⟨rfl, rfl | rfl⟩ := (transfer_of_rule hst).2 rfl <;>
    simp_all [AtStatement, nextPc, loopExit, ruleOf]

/-- A poll's test stands after its status read (46_status_poll R250). -/
theorem atStatement_repoll {s t : State} {op : Op} {pc : Nat} (hat : AtStatement s op pc)
    (hst : (ruleOf op)[pc]? = some .pollTest) (h : SameOperands s t) (hid : t.idBytes = s.idBytes) :
    AtStatement t op (pc - 1) := by
  have hlt : pc < (ruleOf op).length := (List.getElem?_eq_some_iff.mp hst).1
  cases op <;> simp only [ruleOf, eraseTail, List.length_cons, List.length_nil] at hlt hst
  all_goals
    simp only [AtStatement, h.rangeChecked, h.cursorOfOperands, h.currentWindow, h.lifecycle, h.width, h.cursor,
      h.index, hid] at hat ⊢
    interval_cases pc <;> cases hst <;> simp_all

/-! ### The end of an operation -/

theorem runningOp_of_seq {s : State} {op : Op} {pc : Nat} (h : s.seq = .at op pc) : runningOp s = some op := by
  rw [runningOp, h]

theorem seqInv_endOp {s : State} (h : s.lifecycle = .ready → s.busWidth = .w4) (op : Option Op) (r : Result) :
    SeqInv (endOp op r s) :=
  ⟨rfl, rfl, rfl, rfl, rfl, rfl, h⟩

/-- An error leaves INIT in INIT_FAILED, and any other operation at the width it ran at (60_exceptions R267). -/
theorem seqInv_raiseError {s : State} {op : Op} {pc : Nat} (hseq : s.seq = .at op pc)
    (h : op ≠ .init → s.busWidth = .w4) (code : Byte) (info : Info) : SeqInv (raiseError code info s) := by
  refine seqInv_endOp (fun hready => ?_) _ _
  have hop : op ≠ .init := by
    rintro rfl
    simp [runningOp_of_seq hseq] at hready
  simpa using h hop

/-- RESULT (OK, none) is written where READY and width 4 have been reached (41_init R168, 40_bus_primitives R148). -/
theorem busWidth_of_finish {s : State} {op : Op} {pc : Nat} (hat : AtStatement s op pc)
    (hst : (ruleOf op)[pc]? = some .finish ∨ (ruleOf op)[pc]? = some .finishInit) : s.busWidth = .w4 := by
  by_cases hop : op = .init
  · subst hop
    obtain ⟨hlt, _, _, _, hw4, _⟩ := hat
    refine hw4 ?_
    by_contra hpc
    interval_cases pc <;> simp [ruleOf] at hst
  · exact busWidth_of_not_init hat hop

/-! ### Each part of a step -/

theorem SeqInv.at {s : State} {op : Op} {pc : Nat} (h : SeqInv s) (hseq : s.seq = .at op pc) :
    s.ctrlBusy = true ∧ AtStatement s op pc := by
  simpa only [SeqInv, hseq] using h

theorem seqInv_of_at {s : State} {op : Op} {pc : Nat} (hseq : s.seq = .at op pc) (hbusy : s.ctrlBusy = true)
    (hat : AtStatement s op pc) : SeqInv s := by
  simpa only [SeqInv, hseq] using And.intro hbusy hat

/-- The state after the statement's step has been reached by `advance`. -/
theorem seqInv_advance {s : State} {op : Op} {pc : Nat} (hseq : s.seq = .at op pc) (hbusy : s.ctrlBusy = true)
    (hat : AtStatement (advance s) op (nextPc op pc)) : SeqInv (advance s) :=
  seqInv_of_at (by simp [hseq, seqAfter]) (by simpa using hbusy) hat

/-- A statement that issues a bus command. -/
theorem seqInv_issue {s t : State} {op : Op} {pc : Nat} {b : BusStmt} (hseq : s.seq = .at op pc)
    (hbusy : s.ctrlBusy = true) (hat : AtStatement s op pc) (hst : (ruleOf op)[pc]? = some (.issue b))
    (hs : runStmt op pc (.issue b) s = .next t) : SeqInv t := by
  obtain ⟨i, hi, hexec⟩ := runStmt_issue_next hs
  obtain ⟨_, u, rfl, ⟨rx, _, rfl⟩ | ⟨info, rfl⟩⟩ := exec_bus_cases (opOf_busCommand hi) hexec
  · refine seqInv_advance (by simpa using hseq) (by simpa using hbusy)
      (atStatement_next hat hst rfl (by constructor <;> simp) ?_ ?_)
    · intro hid
      by_cases hrdid : i = .rdid
      · subst hrdid
        simp [busReceiver]
      · have hb : b ≠ .rdid := by
          rintro rfl
          cases hi
          exact hrdid rfl
        simpa [busReceiver_idBytes hrdid, hb] using hid
    · rintro hrdsr
      cases hrdsr
      cases hi
      simp [busReceiver]
  · exact seqInv_raiseError (by simpa using hseq) (fun hop => by simpa using busWidth_of_not_init hat hop) _ _

/-- Any statement of a running operation. -/
theorem seqInv_runStmt {s t : State} {op : Op} {pc : Nat} {st : Stmt} (hseq : s.seq = .at op pc)
    (hbusy : s.ctrlBusy = true) (hat : AtStatement s op pc) (hst : (ruleOf op)[pc]? = some st)
    (hs : runStmt op pc st s = .next t) : SeqInv t := by
  have hwidth : op ≠ .init → s.busWidth = .w4 := busWidth_of_not_init hat
  cases st with
  | issue b => exact seqInv_issue hseq hbusy hat hst hs
  | setWidth w =>
    cases hs
    exact seqInv_of_at (by simp [hseq, seqAfter]) (by simpa using hbusy) (atStatement_setWidth hat hst)
  | waitIdle =>
    cases hs
    have hsame : SameOperands s (queryBusy s) := by constructor <;> simp
    obtain ⟨_, ht⟩ | ⟨_, ⟨_, ht⟩ | ⟨_, ht⟩⟩ := stepWaitIdle_cases s <;> rw [ht]
    · exact seqInv_advance (by simpa using hseq) (by simpa using hbusy)
        (atStatement_next hat hst rfl ⟨hsame.1, hsame.2, hsame.3, hsame.4, hsame.5, hsame.6, hsame.7⟩ (by simp) nofun)
    · exact seqInv_raiseError (by simpa using hseq) (fun hop => by simpa using hwidth hop) _ _
    · exact seqInv_of_at (by simpa using hseq) (by simpa using hbusy)
        (SameOperands.atStatement (s := s) ⟨hsame.1, hsame.2, hsame.3, hsame.4, hsame.5, hsame.6, hsame.7⟩ (by simp)
          (by simp) (by simp) hat)
  | checkId =>
    obtain ⟨_, _, ⟨_, rfl⟩ | ⟨_, rfl⟩⟩ := stepCheckId_next hs
    · exact seqInv_advance hseq hbusy
        (atStatement_next hat hst rfl ⟨rfl, rfl, rfl, rfl, rfl, rfl, rfl⟩ (by simp) nofun)
    · exact seqInv_raiseError hseq hwidth _ _
  | checkIndex =>
    obtain ⟨n, hn, ⟨_, rfl⟩ | ⟨hpast, rfl⟩⟩ := stepCheckIndex_next hs
    · exact seqInv_raiseError hseq hwidth _ _
    · exact seqInv_advance hseq hbusy (atStatement_checkIndex hat hst hn hpast)
  | checkRange =>
    obtain ⟨a, n, ha, hn, ⟨_, rfl⟩ | ⟨hpast, rfl⟩⟩ := stepCheckRange_next hs
    · exact seqInv_raiseError hseq hwidth _ _
    · exact seqInv_advance hseq hbusy (atStatement_checkRange hat hst ha hn hpast)
  | forWindow =>
    obtain ⟨a, n, ha, hn, ⟨hk, rfl⟩ | ⟨_, rfl⟩⟩ := stepForWindow_next hs
    · exact seqInv_of_at (by simp [hseq, seqAfter]) hbusy ((atStatement_forWindow hat hst ha hn rfl).2 hk)
    · exact seqInv_of_at rfl hbusy (atStatement_forWindow hat hst ha hn rfl).1
  | pollTest =>
    obtain ⟨_, n, _, _, ⟨_, rfl⟩ | ⟨_, _, rfl⟩ | ⟨_, _, rfl⟩⟩ := stepPollTest_next hs
    · exact seqInv_of_at (by simp [hseq, seqAfter]) hbusy
        (atStatement_next hat hst rfl ⟨rfl, rfl, rfl, rfl, rfl, rfl, rfl⟩ (by simp) nofun)
    · exact seqInv_raiseError (s := { s with pollCount := some (n + 1) }) hseq hwidth _ _
    · exact seqInv_of_at rfl hbusy (atStatement_repoll hat hst ⟨rfl, rfl, rfl, rfl, rfl, rfl, rfl⟩ rfl)
  | finishInit =>
    cases hs
    have hw : s.busWidth = .w4 := busWidth_of_finish hat (.inr hst)
    exact seqInv_endOp (s := { s with lifecycle := .ready }) (fun _ => hw) _ _
  | finish => cases hs; exact seqInv_endOp (fun _ => busWidth_of_finish hat (.inl hst)) _ _

/-- The sequencer's step keeps the invariant. -/
theorem inv_runSequencer {s t : State} (h : Inv s) (hs : runSequencer s = .next t) : Inv t := by
  obtain ⟨_, rfl⟩ | ⟨op, pc, st, hseq, hst, hrun⟩ := runSequencer_next hs
  · exact h
  · obtain ⟨hbusy, hat⟩ := h.sequencer.at hseq
    obtain ⟨hdev, hmem, hres⟩ := h.data.runStmt hrun
    exact ⟨seqInv_runStmt hseq hbusy hat hst hrun, hdev, hmem, hres⟩

/-- While CTRL_BUSY = 0 no register of a running operation exists (10_state R20, R33-R37). -/
theorem SeqInv.idle {s : State} (h : SeqInv s) (hfree : s.ctrlBusy = false) :
    s.seq = .idle ∧ s.cursor = none ∧ s.pollCount = none ∧ s.idleCount = none ∧ s.idBytes = none ∧ s.srByte = none ∧
      (s.lifecycle = .ready → s.busWidth = .w4) := by
  unfold SeqInv at h
  split at h
  next hseq => exact ⟨hseq, h.2⟩
  next => exact absurd (hfree.symm.trans h.1) (by decide)

/-- An operation that is accepted has what its first statement needs (10_state R20, 40_bus_primitives R148). -/
theorem seqInv_startOp {s : State} {op : Op} (h : SeqInv s) (hfree : s.ctrlBusy = false)
    (ha : acceptedIn op s.lifecycle = true) : SeqInv (startOp op s) := by
  obtain ⟨_, hcursor, _, _, _, _, hwidth⟩ := h.idle hfree
  refine seqInv_of_at rfl rfl ?_
  cases op <;> simp_all [AtStatement, acceptedIn]

/-- A host action keeps the sequencer's invariant. -/
theorem seqInv_hostAct {s t : State} {a : HostAction} (h : SeqInv s) (hs : hostAct a s = .next t) : SeqInv t := by
  cases a with
  | writeCmd b =>
    obtain ⟨hfree, ⟨op, ha, rfl⟩ | ⟨op, r, rfl⟩⟩ := writeCommand_next hs
    · exact seqInv_startOp (s := { s with cmd := b }) h hfree ha
    · obtain ⟨_, _, _, _, _, _, hwidth⟩ := h.idle hfree
      exact seqInv_endOp (s := { s with cmd := b }) hwidth op r
  | writeAddr | writeLen | writeIndex | writeBuf =>
    obtain ⟨hfree, rfl⟩ := writeOperand_next hs
    have hidle := h.idle hfree
    simp only [SeqInv, hidle.1]
    exact ⟨hfree, hidle.2⟩
  | store => obtain ⟨_, rfl⟩ := hostStore_next hs; exact h
  | readReg => obtain ⟨_, _, rfl⟩ := readRegister_next hs; exact h
  | reset => cases hs; exact ⟨rfl, rfl, rfl, rfl, rfl, rfl, nofun⟩
  | powerCycle => cases hs; exact h

theorem inv_hostAct {s t : State} {a : HostAction} (h : Inv s) (hs : hostAct a s = .next t) : Inv t := by
  obtain ⟨hdev, hmem, hres⟩ := h.data.hostAct hs
  exact ⟨seqInv_hostAct h.sequencer hs, hdev, hmem, hres⟩

/-- The host's events are no part of the invariant. -/
theorem Inv.with_host {s : State} (h : Inv s) (r : List HostEvent) : Inv { s with host := r } :=
  ⟨h.sequencer, h.device, h.hostForm, h.resultOk⟩

/-- Settles O50: a step is the sequencer's, the end of an `await`, or a host action, and each keeps the invariant. -/
theorem stepKeepsInv : Obligations.StepKeepsInv := by
  intro s t h hs
  obtain ⟨r, hstep, _⟩ | ⟨r, hstep, _⟩ | ⟨a, r, hstep, _⟩ := step_cases s (valid_of_next hs) <;> rw [hstep] at hs
  · exact inv_runSequencer (h.with_host r) hs
  · cases hs; exact h.with_host r
  · exact inv_hostAct (h.with_host r) hs

/-- Settles O51: nothing runs, nothing is stored, and the device's WIP is 0. -/
theorem resetMeetsInv : Obligations.ResetMeetsInv where
  sequencer := ⟨rfl, rfl, rfl, rfl, rfl, rfl, nofun⟩
  device := ⟨memWf_nil _, nofun, trivial, rfl⟩
  hostForm := memWf_nil _
  resultOk := by decide

/-! ### The only fault -/

theorem operand_eq_error {α : Type} {r : Operand} {v : Option α} {f : Fault} (h : operand r v = .error f) :
    f = .unsetOperand r := by
  cases v <;> cases h
  rfl

theorem map_operand_eq_error {α β : Type} {r : Operand} {v : Option α} {g : α → β} {f : Fault}
    (h : (operand r v).map g = .error f) : f = .unsetOperand r := by
  cases v <;> cases h
  rfl

/-- A host action faults only where the host reads a register never written (10_state R50). -/
theorem hostAct_fault {s : State} {a : HostAction} {f : Fault} (hs : hostAct a s = .fault f) :
    ∃ r, f = .unsetOperand r := by
  cases a with
  | writeCmd b =>
    simp only [hostAct, writeCommand] at hs
    split at hs
    · cases hs
    · split at hs
      next i hi =>
        obtain ⟨⟨op, hop⟩, _⟩ := code_of_decodeCmd hi
        rw [exec_op hop] at hs
        unfold issueOp at hs
        split at hs
        · cases hs
        · split at hs <;> cases hs
      · cases hs
  | writeAddr | writeLen | writeIndex | writeBuf =>
    simp only [hostAct, writeOperand] at hs
    split at hs <;> cases hs
  | store =>
    simp only [hostAct, hostStore] at hs
    split at hs <;> cases hs
  | readReg r =>
    simp only [hostAct, readRegister] at hs
    split at hs <;> cases hs
    next hv =>
      cases r with
      | addr | len | index | buf => exact ⟨_, map_operand_eq_error hv⟩
      | lifecycle | ctrlBusy | result | busWidth => cases hv
  | reset | powerCycle => cases hs

/-- What the statements that read a hidden register find there (10_state R34-R37). -/
theorem hidden_of_rule {s : State} {op : Op} {pc : Nat} {st : Stmt} (hat : AtStatement s op pc)
    (hst : (ruleOf op)[pc]? = some st) :
    (st = .checkId → s.idBytes ≠ none) ∧ (st = .pollTest → s.srByte ≠ none ∧ s.pollCount ≠ none) ∧
      (st = .issue .frqio ∨ st = .issue .pp → currentWindow s ≠ none) := by
  have hlt : pc < (ruleOf op).length := (List.getElem?_eq_some_iff.mp hst).1
  cases op <;> simp only [ruleOf, eraseTail, List.length_cons, List.length_nil] at hlt hst
  all_goals
    interval_cases pc <;> cases hst <;> simp_all [AtStatement]

/-- The operands of a statement that issues a bus command are there, but for those that the host has not written. -/
theorem busCommand_error {s : State} {op : Op} {pc : Nat} {b : BusStmt} {f : Fault} (hat : AtStatement s op pc)
    (hst : (ruleOf op)[pc]? = some (.issue b)) (h : busCommand op b s = .error f) : ∃ r, f = .unsetOperand r := by
  obtain ⟨_, _, hwindow⟩ := hidden_of_rule hat hst
  cases b with
  | rdid | wren | qpien | srp | rdsr => cases h
  | erase =>
    obtain ⟨rfl, _⟩ | ⟨rfl | rfl | rfl, _⟩ := issuePlace_of_rule hst
    · cases h
    all_goals exact ⟨_, map_operand_eq_error h⟩
  | frqio =>
    simp only [busCommand, readCommand] at h
    split at h
    next hnone => exact absurd hnone (hwindow (.inl rfl))
    · exact ⟨_, map_operand_eq_error h⟩
  | pp =>
    simp only [busCommand, programCommand] at h
    split at h
    next hnone => exact absurd hnone (hwindow (.inr rfl))
    · exact ⟨_, map_operand_eq_error h⟩

/-- A statement that issues a bus command: the command itself is inside the array, so it does not fault. -/
theorem issue_fault {s : State} {op : Op} {pc : Nat} {b : BusStmt} {f : Fault} (hc : s.cfg.Valid)
    (hat : AtStatement s op pc) (hst : (ruleOf op)[pc]? = some (.issue b))
    (hs : runStmt op pc (.issue b) s = .fault f) : ∃ r, f = .unsetOperand r := by
  simp only [runStmt] at hs
  split at hs
  next i hi =>
    have hin : busInside i := busInside_of_wellFormed hc (issued_legal hc hat hst hi).1
    rw [exec_bus (opOf_busCommand hi) hin] at hs
    cases hs
  next hf =>
    cases hs
    exact busCommand_error hat hst hf

/-- A statement faults only where it reads a register never written (10_state R28). -/
theorem runStmt_fault {s : State} {op : Op} {pc : Nat} {st : Stmt} {f : Fault} (hc : s.cfg.Valid)
    (hat : AtStatement s op pc) (hst : (ruleOf op)[pc]? = some st) (hs : runStmt op pc st s = .fault f) :
    ∃ r, f = .unsetOperand r := by
  obtain ⟨hid, hpoll, _⟩ := hidden_of_rule hat hst
  cases st with
  | issue b => exact issue_fault hc hat hst hs
  | setWidth | waitIdle | finishInit | finish => cases hs
  | checkId =>
    simp only [runStmt, stepCheckId] at hs
    split at hs
    next hnone => exact absurd hnone (hid rfl)
    · split at hs <;> cases hs
  | checkIndex =>
    simp only [runStmt, stepCheckIndex] at hs
    split at hs
    next hf => cases hs; exact ⟨_, operand_eq_error hf⟩
    · split at hs <;> cases hs
  | checkRange =>
    simp only [runStmt, stepCheckRange] at hs
    split at hs
    next hf => cases hs; exact ⟨_, operand_eq_error hf⟩
    next hf => cases hs; exact ⟨_, operand_eq_error hf⟩
    · split at hs <;> cases hs
  | forWindow =>
    simp only [runStmt, stepForWindow] at hs
    split at hs
    next hf => cases hs; exact ⟨_, operand_eq_error hf⟩
    next hf => cases hs; exact ⟨_, operand_eq_error hf⟩
    · split at hs <;> cases hs
  | pollTest =>
    obtain ⟨hsr, hcount⟩ := hpoll rfl
    simp only [runStmt, stepPollTest] at hs
    split at hs
    next hnone => exact absurd hnone hsr
    next hnone => exact absurd hnone hcount
    · repeat' split at hs
      all_goals cases hs

/-- SEQ stays inside its rule, so the sequencer faults only where a statement does (10_state R33). -/
theorem runSequencer_fault {s : State} {f : Fault} (hc : s.cfg.Valid) (h : SeqInv s)
    (hs : runSequencer s = .fault f) : ∃ r, f = .unsetOperand r := by
  unfold runSequencer at hs
  split at hs
  · cases hs
  next op pc hseq =>
    obtain ⟨_, hat⟩ := h.at hseq
    split at hs
    next st hst => exact runStmt_fault hc hat hst hs
    next hnone =>
      have hlen : (ruleOf op).length ≤ pc := List.getElem?_eq_none_iff.mp hnone
      cases op <;> obtain ⟨hlt, _⟩ := hat <;> exact absurd hlen (Nat.not_le.mpr hlt)

/-- Settles O52: the sequencer faults only where a statement reads an operand register (`runStmt_fault`), a host action
only where the host does. -/
theorem onlyUnsetOperandsFault : Obligations.OnlyUnsetOperandsFault := by
  intro s f h hs
  have hc := valid_of_fault hs
  obtain ⟨r, hstep, _⟩ | ⟨r, hstep, _⟩ | ⟨a, r, hstep, _⟩ := step_cases s hc <;> rw [hstep] at hs
  · exact runSequencer_fault (s := { s with host := r }) hc h.sequencer hs
  · cases hs
  · exact hostAct_fault hs

end Sys2Proof.Machine
end

section
/-! PROOFS. The bus commands that configure the device or start a write (20_memory R76-R81, R83), when the device
understands them and the transport completes them. -/
namespace Sys2Proof.Machine
open Sys2Proof

/-! ### The device's configuration -/

/-- With WEL = 1 QPIEN is obeyed under either reading of U32 (20_memory R81). -/
theorem devQpien_of_wel {dev : Device} (h : wel dev.sr = true) (d : TxDraw) :
    devQpien d dev = ({ dev with mode := .qpi4 }, []) := by
  simp [devQpien, h]

/-- Settles O16: WEL = 1 leaves QPIEN one effect (`devQpien_of_wel`). -/
theorem qpienEntersQuadMode : Obligations.QpienEntersQuadMode := by
  intro s d r htx hd ⟨hw, hidle⟩ hwel
  rw [exec_bus_understood .qpien rfl trivial htx hd hw (.inr hidle) (.inr hidle), busEffect, devQpien_of_wel hwel]
  rfl

/-- The status register that SRP leaves, by what is drawn of U31 (20_memory R80). -/
def srpStatus (d : TxDraw) (sr : Byte) : Byte :=
  let sr1 := if d.srpClearsWel then clearWel sr else sr
  if d.srpSetsWip then setWip sr1 else sr1

theorem srpStatus_getLsbD (d : TxDraw) (sr : Byte) {k : Nat} (h0 : k ≠ 0) (h1 : k ≠ 1) :
    (srpStatus d sr).getLsbD k = sr.getLsbD k := by
  unfold srpStatus
  split_ifs <;> simp [setWip_getLsbD, clearWel_getLsbD, h0, h1]

/-- With WEL = 1 SRP is obeyed under either reading of U31 (20_memory R80). -/
theorem devSrp_of_wel {dev : Device} (h : wel dev.sr = true) (p : Byte) (d : TxDraw) :
    devSrp p d dev =
      ({ dev with
         readParam := p, sr := srpStatus d dev.sr,
         pending := if d.srpSetsWip then some .other else dev.pending }, []) := by
  simp [devSrp, h, srpStatus]

/-- Settles O17: WEL = 1 leaves the status bits and the write in progress as the only open part (`devSrp_of_wel`). -/
theorem srpWritesTheReadParameters : Obligations.SrpWritesTheReadParameters := by
  intro s d r htx hd ⟨hw, hidle⟩ hwel
  refine ⟨srpStatus d s.dev.sr, if d.srpSetsWip then some .other else s.dev.pending, ?_,
    fun k h0 h1 => srpStatus_getLsbD d _ h0 h1, by split_ifs <;> simp⟩
  rw [exec_bus_understood .srp rfl trivial htx hd hw (.inr hidle) (.inr hidle), busEffect, devSrp_of_wel hwel]
  rfl

/-! ### The start of a write -/

theorem devPp_accepted {dev : Device} {a : Nat} {v : List Byte} (hwel : wel dev.sr = true)
    (hprot : protectedProgram dev a v = false) (d : TxDraw) :
    devPp a v d dev = (acceptWrite (.program a v) dev, []) := by
  simp [devPp, hwel, hprot]

theorem devErase_accepted {dev : Device} {g : Range} (hwel : wel dev.sr = true)
    (hprot : protectedRange dev g = false) (d : TxDraw) : devErase g d dev = (acceptWrite (.erase g) dev, []) := by
  simp [devErase, hwel, hprot]

/-- Accepting a write sets WIP, clears WEL, and keeps every other status bit (20_memory R77, R78). -/
theorem acceptWrite_status (sr : Byte) :
    (setWip (clearWel sr)).getLsbD 0 = true ∧ (setWip (clearWel sr)).getLsbD 1 = false ∧
      ∀ k, 2 ≤ k → (setWip (clearWel sr)).getLsbD k = sr.getLsbD k :=
  ⟨wip_setWip _, (wel_setWip _).trans (wel_clearWel _), fun k hk => by
    simp [setWip_getLsbD, clearWel_getLsbD, show k ≠ 0 by omega, show k ≠ 1 by omega]⟩

/-- A byte of the write in progress reads as unspecified (20_memory R82). -/
theorem deviceByte_of_pendingAt {dev : Device} {x : Nat} (h : pendingAt dev.pending x = true) :
    deviceByte dev x = none := by
  simp [deviceByte, h]

/-- A write that starts leaves every byte it does not concern. -/
theorem deviceByte_acceptWrite_out {dev : Device} {p : Pending} {x : Nat} (hidle : dev.pending = none)
    (h : pendingAt (some p) x = false) : deviceByte (acceptWrite p dev) x = deviceByte dev x := by
  have hbyte : arrayByte (acceptWrite p dev) x = arrayByte dev x := arrayByte_congr ⟨rfl, rfl, rfl⟩ x
  have hnone : pendingAt dev.pending x = false := by rw [hidle]; rfl
  simp only [deviceByte, hbyte, hnone]
  simp only [acceptWrite, h]

theorem pendingAt_program_false {a : Nat} {v : List Byte} {x : Nat} :
    pendingAt (some (.program a v)) x = false ↔ ∀ i, i < v.length → pageWrap a i ≠ x := by
  rw [← Bool.not_eq_true, pendingAt_program]
  simp

/-- Settles O20: PP is accepted (`devPp_accepted`), and only the bytes it will write become unspecified. -/
theorem ppStartsAProgram : Obligations.PpStartsAProgram := by
  intro s d r a v htx hd ⟨hw, hidle⟩ hnone hwel hprot hcap hlen
  obtain ⟨hwip, hclear, hkeep⟩ := acceptWrite_status s.dev.sr
  refine ⟨setWip (clearWel s.dev.sr), _, ?_, rfl, hwip, hclear, hkeep, fun x hx => ?_, fun i hi => ?_⟩
  · rw [exec_bus_understood (.pp a v) rfl ⟨hcap, hlen⟩ htx hd hw (.inr hidle) (.inr hidle), busEffect,
      devPp_accepted hwel hprot]
    rfl
  · exact deviceByte_acceptWrite_out hnone (pendingAt_program_false.mpr hx)
  · exact deviceByte_of_pendingAt ((pendingAt_program _ _ _).mpr ⟨i, hi, rfl⟩)

/-- The commands that erase, with their regions: the low address bits do not count (20_memory R78). -/
inductive Erases (a : BusAddr) : Instr → Range → Prop
  | ser : Erases a (.ser a) ⟨a.toNat - a.toNat % 4096, 4096⟩
  | be32k : Erases a (.be32k a) ⟨a.toNat - a.toNat % 32768, 32768⟩
  | be64k : Erases a (.be64k a) ⟨a.toNat - a.toNat % 65536, 65536⟩
  | cer : Erases a .cer ⟨0, 0x800000⟩

section
variable {a : BusAddr} {i : Instr} {g : Range} (h : Erases a i g)
include h

theorem Erases.onBus : opOf i = none := by cases h <;> rfl

theorem Erases.inside (ha : a.toNat < capacity) : busInside i := by
  cases h with
  | ser | be32k | be64k => exact ha
  | cer => trivial

theorem Erases.effect (c : Config) : busEffect c i = devErase g := by cases h <;> rfl

theorem Erases.receiver : busReceiver i = recvNothing := by cases h <;> rfl

theorem Erases.anytime : busAnytime i = false := by cases h <;> rfl

end

/-- Settles O21: an erase is accepted (`devErase_accepted`), and only its region becomes unspecified. -/
theorem eraseCommandsStartAnErase : Obligations.EraseCommandsStartAnErase := by
  intro s d r a htx hd ⟨hw, hidle⟩ hnone hwel hcap
  obtain ⟨hwip, hclear, hkeep⟩ := acceptWrite_status s.dev.sr
  refine ⟨setWip (clearWel s.dev.sr), hwip, hclear, hkeep, fun i g c o hcase hprot => ?_⟩
  obtain ⟨he, hdesc⟩ : Erases a i g ∧ descriptor s.cfg s.busWidth i = ⟨s.busWidth, c, o, none, 0, [], 0⟩ := by
    rcases hcase with ⟨rfl, rfl, rfl, rfl⟩ | ⟨rfl, rfl, rfl, rfl⟩ | ⟨rfl, rfl, rfl, rfl⟩ | ⟨rfl, rfl, rfl, rfl⟩
    · exact ⟨.ser, rfl⟩
    · exact ⟨.be32k, rfl⟩
    · exact ⟨.be64k, rfl⟩
    · exact ⟨.cer, rfl⟩
  refine ⟨_, ?_, rfl, fun x hx => ?_, fun x hlow hhigh => ?_⟩
  · rw [exec_bus_understood i he.onBus (he.inside hcap) htx hd hw (.inr hidle) (.inr hidle), he.effect, he.receiver,
      devErase_accepted hwel hprot, hdesc]
    rfl
  · exact deviceByte_acceptWrite_out hnone ((inRange_false_iff g x).mpr hx)
  · exact deviceByte_of_pendingAt ((inRange_iff g x).mpr ⟨hlow, hhigh⟩)

/-! ### A write that is not accepted -/

theorem devPp_refused {dev : Device} {a : Nat} {v : List Byte}
    (h : wel dev.sr = false ∨ protectedProgram dev a v = true) (d : TxDraw) : devPp a v d dev = (dev, []) := by
  rcases h with h | h <;> simp [devPp, h]

theorem devErase_refused {dev : Device} {g : Range} (h : wel dev.sr = false ∨ protectedRange dev g = true)
    (d : TxDraw) : devErase g d dev = (dev, []) := by
  rcases h with h | h <;> simp [devErase, h]

/-- A program of at least one byte, all of them protected (20_memory R83). -/
theorem protectedProgram_of_all {dev : Device} {a : Nat} {v : List Byte} (hv : v ≠ [])
    (h : ∀ j, j < v.length → protectedAt dev (pageWrap a j) = true) : protectedProgram dev a v = true := by
  have hfirst := h 0 (List.length_pos_iff.mpr hv)
  obtain ⟨q, hq, _⟩ := List.any_eq_true.mp hfirst
  have hranges : protRanges dev ≠ [] := List.ne_nil_of_mem hq
  simp only [protectedProgram, Bool.and_eq_true, Bool.not_eq_true', List.isEmpty_eq_false_iff, List.all_eq_true,
    List.mem_range]
  exact ⟨hranges, h⟩

/-- A busy device ignores a command that it does not understand at any time, where it is not left open (20_memory R83,
70_reset R301). -/
theorem receive_ignored {d : TxDraw} {w : Width} {aborted : Bool} (eff : DevEffect) {dev : Device}
    (hw : w = modeWidth dev.mode) (hbusy : wip dev.sr = true) (h : aborted = false ∨ d.ignores = true) :
    receive d w false aborted eff dev = (dev, d.rx) := by
  unfold receive
  rw [if_neg (by simp [hw]), if_pos (by simp [hbusy]), if_neg (by rcases h with h | h <;> simp [h])]

/-- FRQIO alone writes the host's memory (44_read R218). -/
theorem busReceiver_hostMem {i : Instr} (h : ∀ a n, i ≠ .frqio a n) (rx : List Byte) (s : State) :
    (busReceiver i rx s).hostMem = s.hostMem := by
  cases i with
  | frqio a n => exact absurd rfl (h a n)
  | init | eraseChip | eraseSector | eraseBlock32K | eraseBlock64K | read | program | rdid | wren | qpien | srp |
  rdsr | pp
  | ser | be32k | be64k | cer => rfl

/-- A bus command that the transport completes and that leaves the device as it was. -/
theorem exec_bus_unchanged {s : State} {i : Instr} {d : TxDraw} {r : List TxDraw} (hi : opOf i = none)
    (hin : busInside i) (htx : s.txIn = d :: r) (hfail : d.fail = none) (hdone : d.done = false)
    (h : (receive d s.busWidth (busAnytime i) s.afterAbort (busEffect s.cfg i) s.dev).1 = s.dev) :
    ∃ t, exec i s = .next t ∧ t.dev = s.dev ∧ t.seq = seqAfter s.seq ∧
      ((∀ a n, i ≠ .frqio a n) → t.hostMem = s.hostMem) := by
  refine ⟨_, exec_bus hi hin, ?_⟩
  rw [transact_ok htx hfail]
  simp only [descriptor_w, hdone, settle_false, advance_dev, busReceiver_dev, advance_seq, busReceiver_seq,
    advance_hostMem]
  exact ⟨h, trivial, fun hn => busReceiver_hostMem hn _ _⟩

/-- The write-class commands (20_memory R77, R78). -/
theorem writeClass_refused {s : State} {i : Instr} {a : BusAddr} {v : List Byte}
    (hi : i = .pp a v ∨ i = .ser a ∨ i = .be32k a ∨ i = .be64k a ∨ i = .cer)
    (h : wel s.dev.sr = false ∨
      (i = .pp a v → v ≠ [] ∧ ∀ j, j < v.length → protectedAt s.dev (pageWrap a.toNat j) = true) ∧
      (i = .ser a → ∀ x, a.toNat / 4096 = x / 4096 → protectedAt s.dev x = true) ∧
      (i = .be32k a → ∀ x, a.toNat / 32768 = x / 32768 → protectedAt s.dev x = true) ∧
      (i = .be64k a → ∀ x, a.toNat / 65536 = x / 65536 → protectedAt s.dev x = true) ∧
      (i = .cer → ∀ x, x < capacity → protectedAt s.dev x = true)) (d : TxDraw) :
    busEffect s.cfg i d s.dev = (s.dev, []) := by
  rcases hi with rfl | rfl | rfl | rfl | rfl
  · refine devPp_refused (h.imp_right fun hp => ?_) d
    obtain ⟨hv, hall⟩ := hp.1 rfl
    exact protectedProgram_of_all hv hall
  all_goals
    refine devErase_refused (h.imp_right fun hp => (protectedRange_iff (by simp [unitRange])).mpr fun x hx => ?_) d
    obtain ⟨_, hser, h32, h64, hcer⟩ := hp
    simp only [inRange_iff, unitRange, sectorSize, block32Size, block64Size] at hx
  · exact hser rfl x (by omega)
  · exact h32 rfl x (by omega)
  · exact h64 rfl x (by omega)
  · exact hcer rfl x (by omega)

/-- Settles O24: a busy device ignores the command (`receive_ignored`), an idle one finds it not accepted
(`writeClass_refused`). -/
theorem unacceptedWritesChangeNothing : Obligations.UnacceptedWritesChangeNothing := by
  refine ⟨fun s d r i a v hi htx hd hw hdone hcap hlen hcase => ?_,
    fun s d r i a n hi htx hd hw hdone hbusy hopen => ?_⟩
  · obtain ⟨hbus, hin, hany, hnot⟩ :
        opOf i = none ∧ busInside i ∧ busAnytime i = false ∧ ∀ b n, i ≠ .frqio b n := by
      rcases hi with rfl | rfl | rfl | rfl | rfl
      · exact ⟨rfl, ⟨hcap, hlen⟩, rfl, nofun⟩
      · exact ⟨rfl, hcap, rfl, nofun⟩
      · exact ⟨rfl, hcap, rfl, nofun⟩
      · exact ⟨rfl, hcap, rfl, nofun⟩
      · exact ⟨rfl, trivial, rfl, nofun⟩
    have hdev : (receive d s.busWidth (busAnytime i) s.afterAbort (busEffect s.cfg i) s.dev).1 = s.dev := by
      rcases hcase with ⟨hidle, hwel⟩ | ⟨hbusy, hopen⟩ | ⟨hidle, hprot⟩
      · rw [receive_understood d _ hw (.inr hidle), writeClass_refused hi (.inl hwel)]
      · rw [hany, receive_ignored _ hw hbusy hopen]
      · rw [receive_understood d _ hw (.inr hidle), writeClass_refused hi (.inr hprot)]
    obtain ⟨t, ht, hsame, hseq, hmem⟩ := exec_bus_unchanged hbus hin htx hd.1 hdone hdev
    exact ⟨t, ht, hsame, hmem hnot, hseq⟩
  · obtain ⟨hbus, hin, hany⟩ : opOf i = none ∧ busInside i ∧ busAnytime i = false := by
      rcases hi with rfl | rfl | rfl | rfl | rfl <;> exact ⟨rfl, trivial, rfl⟩
    have hdev : (receive d s.busWidth (busAnytime i) s.afterAbort (busEffect s.cfg i) s.dev).1 = s.dev := by
      rw [hany, receive_ignored _ hw hbusy hopen]
    obtain ⟨t, ht, hsame, hseq, hmem⟩ := exec_bus_unchanged hbus hin htx hd.1 hdone hdev
    refine ⟨t, ht, hsame, hseq, fun hne => hmem ?_⟩
    rintro b m rfl
    rcases hi with h | h | h | h | h <;> simp_all

/-- Settles O30: the two checks stand before the transaction. -/
theorem writesPastTheArrayFault : Obligations.WritesPastTheArrayFault := by
  intro s a v
  refine ⟨fun h => ⟨if_pos h, if_pos h, if_pos h, if_pos h⟩, fun ha hv => ?_⟩
  exact (if_neg (Nat.not_le.mpr ha)).trans (if_pos hv)

end Sys2Proof.Machine
end

section
/-! PROOFS. The completion of a write (20_memory R76-R79, R82; 10_state R43). -/
namespace Sys2Proof.Machine
open Sys2Proof

/-- A completed write clears WIP and keeps every other status bit (20_memory R77, R82). -/
theorem completeWrite_status (dev : Device) :
    wip (completeWrite dev).sr = false ∧ ∀ k, 1 ≤ k → (completeWrite dev).sr.getLsbD k = dev.sr.getLsbD k := by
  rw [completeWrite_sr]
  exact ⟨wip_clearWip _, fun k hk => by simp [clearWip_getLsbD, show k ≠ 0 by omega]⟩

/-- A completed program (20_memory R77). -/
theorem completeWrite_program {dev : Device} {a : Nat} {v : List Byte} (h : dev.pending = some (.program a v)) :
    completeWrite dev =
      { dev with
        sr := clearWip dev.sr, pending := none, array := programBytes (protectedAt dev) dev.array a 0 v } := by
  simp [completeWrite, h]

/-- A completed erase (20_memory R78). -/
theorem completeWrite_erase {dev : Device} {g : Range} (h : dev.pending = some (.erase g)) :
    completeWrite dev =
      { dev with
        sr := clearWip dev.sr, pending := none, array := eraseBytes (protectedAt dev) dev.array g,
        unerased := eraseRanges dev g dev.unerased, doubt := eraseRanges dev g dev.doubt } := by
  simp [completeWrite, h]

/-- Settles O22: the bytes are `arrayByte_completeProgram_in` and `_out`; the address of byte `i` is `pageWrap a i`. -/
theorem completedProgramAndsInsideThePage : Obligations.CompletedProgramAndsInsideThePage := by
  intro dev a v hm hp hlen hprot
  obtain ⟨hwip, hkeep⟩ := completeWrite_status dev
  refine ⟨fun i hi => arrayByte_completeProgram_in hm hp hlen hi (hprot i hi),
    fun x hx => arrayByte_completeProgram_out hm hp fun j hj he => absurd he (hx j hj), ?_, ?_,
    completeWrite_pending dev, hwip, hkeep⟩
  · rw [completeWrite_program hp]
  · rw [completeWrite_program hp]
    exact memWf_programBytes hm _ _ _

/-- An erase ends the doubt in what it erases, and sets it to 0xFF (20_memory R78, 60_exceptions R269). -/
theorem deviceByte_completeErase_in {dev : Device} {g : Range} (hp : dev.pending = some (.erase g)) {x : Nat}
    (hx : inRange g x = true) (hprot : protectedAt dev x = false) : deviceByte (completeWrite dev) x = some 0xFF := by
  have hdoubt : (completeWrite dev).doubt.any (fun r => inRange r x) = false := by
    rw [completeWrite_erase hp]
    simp [any_eraseRanges, hx, hprot]
  rw [deviceByte_of (by rw [completeWrite_pending]; rfl) hdoubt, arrayByte_completeErase hp, hx, hprot]
  rfl

/-- An erase leaves every byte outside its region as the device answered it. -/
theorem deviceByte_completeErase_out {dev : Device} {g : Range} (hp : dev.pending = some (.erase g)) {x : Nat}
    (hx : inRange g x = false) : deviceByte (completeWrite dev) x = deviceByte dev x := by
  have hbyte : arrayByte (completeWrite dev) x = arrayByte dev x := by
    rw [arrayByte_completeErase hp, hx]
    rfl
  have hdoubt : (completeWrite dev).doubt.any (fun r => inRange r x) = dev.doubt.any (fun r => inRange r x) := by
    rw [completeWrite_erase hp]
    simp [any_eraseRanges, hx]
  simp only [deviceByte, hbyte, hdoubt, completeWrite_pending, hp, pendingAt, hx]

/-- Settles O23: `deviceByte_completeErase_in` and `_out`, and the status bits of any completed write. -/
theorem completedEraseSetsTheRegion : Obligations.CompletedEraseSetsTheRegion := by
  intro dev g hp
  obtain ⟨hwip, hkeep⟩ := completeWrite_status dev
  exact ⟨fun x hlow hhigh => deviceByte_completeErase_in hp ((inRange_iff g x).mpr ⟨hlow, hhigh⟩),
    fun x hx => deviceByte_completeErase_out hp ((inRange_false_iff g x).mpr hx), completeWrite_pending dev, hwip,
    hkeep⟩

/-- The kinds of write that a completion can find. -/
theorem pending_cases (p : Option Pending) :
    (∃ a v, p = some (.program a v)) ∨ (∃ g, p = some (.erase g)) ∨
      ((∀ a v, p ≠ some (.program a v)) ∧ ∀ g, p ≠ some (.erase g)) := by
  rcases p with _ | ⟨a, v⟩ | g | _ | _ <;> simp

/-- A completed write leaves every byte that it does not reach: of a program the bytes of `pageWrap`, of an erase its
region, and in either what is protected. -/
theorem arrayByte_completeWrite_out {dev : Device} {x : Nat} (hm : memWf arrayDefault dev.array)
    (h1 : ∀ a v, dev.pending = some (.program a v) → ∀ j, j < v.length → pageWrap a j = x → protectedAt dev x = true)
    (h2 : ∀ g, dev.pending = some (.erase g) → inRange g x = true → protectedAt dev x = true) :
    arrayByte (completeWrite dev) x = arrayByte dev x := by
  obtain ⟨a, v, hp⟩ | ⟨g, hp⟩ | ⟨hno, hno'⟩ := pending_cases dev.pending
  · exact arrayByte_completeProgram_out hm hp (h1 a v hp)
  · rw [arrayByte_completeErase hp, if_neg]
    rw [Bool.and_eq_true, Bool.not_eq_true', not_and, Bool.not_eq_false]
    exact h2 g hp
  · exact arrayByte_completeOther hno hno' x

/-- Settles O25: a program and an erase spare what is protected (`arrayByte_completeWrite_out`). -/
theorem protectedBytesAreNotWritten : Obligations.ProtectedBytesAreNotWritten := by
  intro dev x hm hprot
  exact arrayByte_completeWrite_out hm (fun _ _ _ _ _ _ => hprot) fun _ _ _ => hprot

/-- A completed write that is no erase only clears bits (20_memory R79). -/
theorem arrayByte_completeWrite_le {dev : Device} (hm : memWf arrayDefault dev.array)
    (herase : ∀ g, dev.pending ≠ some (.erase g)) {x k : Nat}
    (hk : (arrayByte (completeWrite dev) x).getLsbD k = true) : (arrayByte dev x).getLsbD k = true := by
  obtain ⟨a, v, hp⟩ | ⟨g, hp⟩ | ⟨hno, hno'⟩ := pending_cases dev.pending
  · have hbase : baseByte (completeWrite dev) x = baseByte dev x := by
      rw [completeWrite_program hp]
      rfl
    refine arrayByte_le hbase (fun k h => ?_) hk
    rw [completeWrite_program hp] at h
    exact memGet_programBytes_le hm a 0 v x k h
  · exact absurd hp (herase g)
  · rwa [arrayByte_completeOther hno hno'] at hk

/-! ### What a bus command that the device heeds can find and leave -/

theorem busAnytime_eq (i : Instr) : busAnytime i = decide (i = .rdsr) := by
  cases i <;> rfl

/-- The device after a bus command. -/
theorem exec_bus_dev {s t : State} {i : Instr} (hi : opOf i = none) (h : exec i s = .next t) :
    busInside i ∧ t.dev = (transactDevice (nextTx s).1 (descriptor s.cfg s.busWidth i) (busAnytime i) s.afterAbort
      (busEffect s.cfg i) s.dev).1 := by
  obtain ⟨hin, rfl⟩ := exec_bus_next hi h
  exact ⟨hin, transact_dev ..⟩

theorem heeds_of_deviceHeeds {s : State} {i : Instr} (h : DeviceHeeds s i) :
    Heeds (nextTx s).1 (descriptor s.cfg s.busWidth i).w (busAnytime i) s.afterAbort s.dev := by
  rw [descriptor_w, busAnytime_eq]
  exact h

/-- A bus command that the device heeds stores nothing itself: all it can do is find a write completed. -/
theorem arrayByte_exec_bus {s t : State} {i : Instr} (hi : opOf i = none) (hheed : DeviceHeeds s i)
    (h : exec i s = .next t) (x : Nat) : arrayByte t.dev x = arrayByte (settle (nextTx s).1.done s.dev) x := by
  obtain ⟨hin, hdev⟩ := exec_bus_dev hi h
  rw [hdev, arrayByte_transactDevice (tame_busEffect hin) (heeds_of_deviceHeeds hheed)]

/-- A host operation's CMD write does not reach the device. -/
theorem exec_op_dev {s t : State} {i : Instr} {op : Op} (hi : opOf i = some op) (h : exec i s = .next t) :
    t.dev = s.dev := by
  rw [exec_op hi] at h
  obtain ⟨_, ⟨_, rfl⟩ | ⟨_, rfl⟩⟩ := issueOp_next h <;> rfl

/-- Settles O26: what an instruction leaves of the array is a write that completed at most (`arrayByte_exec_bus`), and
no erase is in progress (`arrayByte_completeWrite_le`). -/
theorem onlyErasesSetBits : Obligations.OnlyErasesSetBits := by
  intro s t i x v hm herase _ hheed hexec hbyte k hk
  obtain ⟨_, _, rfl⟩ := deviceByte_eq_some hbyte
  cases hi : opOf i with
  | some op => rwa [exec_op_dev hi hexec] at hk
  | none =>
    rw [arrayByte_exec_bus hi (hheed hi) hexec] at hk
    obtain hs | hs := settle_cases (nextTx s).1.done s.dev <;> rw [hs] at hk
    · exact hk
    · exact arrayByte_completeWrite_le hm herase hk

/-- Settles O34: a byte outside the write in progress is outside what a completion reaches. -/
theorem busCommandsKeepTheRestOfTheArray : Obligations.BusCommandsKeepTheRestOfTheArray := by
  intro s t i x hi hm hheed hexec _ hprogram herase
  rw [arrayByte_exec_bus hi hheed hexec]
  obtain hs | hs := settle_cases (nextTx s).1.done s.dev <;> rw [hs]
  refine arrayByte_completeWrite_out hm (fun a v hp j hj he => absurd he (hprogram a v hp j hj)) fun g hp hin => ?_
  rw [(inRange_false_iff g x).mpr (herase g hp)] at hin
  cases hin

/-- Settles O33: a completion, every effect and a tear keep bits 2 to 7 (`TameEffect.status`). -/
theorem busCommandsKeepTheProtectBits : Obligations.BusCommandsKeepTheProtectBits := by
  intro s t i hi hheed hexec k hk
  obtain ⟨hin, hdev⟩ := exec_bus_dev hi hexec
  have hsettle := settle_status (nextTx s).1.done s.dev k (by omega)
  have hreceive : ∀ u, u = receive (nextTx s).1 (descriptor s.cfg s.busWidth i).w (busAnytime i) s.afterAbort
      (busEffect s.cfg i) (settle (nextTx s).1.done s.dev) → u.1.sr.getLsbD k = s.dev.sr.getLsbD k := by
    rintro _ rfl
    obtain hr | hr := receive_heeded (busEffect s.cfg i) (heeds_settle (heeds_of_deviceHeeds hheed) _) <;> rw [hr]
    · rw [(tame_busEffect hin).status _ _ k hk, hsettle]
    · exact hsettle
  obtain hc | hc | hc := transactDevice_dev_cases (nextTx s).1 (descriptor s.cfg s.busWidth i) (busAnytime i)
    s.afterAbort (busEffect s.cfg i) s.dev <;> rw [hdev, hc]
  · exact hsettle
  · exact hreceive _ rfl
  · rw [tearWrite_sr]
    exact hreceive _ rfl

end Sys2Proof.Machine
end

section
/-! PROOFS. What a bus command keeps of the sequencer and of the host (10_state sections 2 and 3, 44_read R218,
R220). -/
namespace Sys2Proof.Machine
open Sys2Proof

/-- Settles O31: both ends of a bus command, the advance and the raise, write none of these (`exec_bus_cases`). -/
theorem busCommandsCompleteAndKeepTheRegisters : Obligations.BusCommandsCompleteAndKeepTheRegisters := by
  intro s i hi
  refine ⟨fun hc hwf => ⟨_, exec_bus hi (busInside_of_wellFormed hc hwf)⟩, fun t ht => ?_⟩
  obtain ⟨hin, u, rfl, ⟨rx, _, rfl⟩ | ⟨info, rfl⟩⟩ := exec_bus_cases hi ht <;>
    simp [transactDevice_chip (tame_busEffect hin)]

/-- A bus command whose transaction the transport completes: the bytes it receives are as many as its descriptor asks
for (40_bus_primitives R140). -/
theorem exec_bus_ok {s t : State} {d : TxDraw} {r : List TxDraw} {i : Instr} (hi : opOf i = none)
    (htx : s.txIn = d :: r) (hfail : d.fail = none) (h : exec i s = .next t) :
    ∃ rx, rx.length = (descriptor s.cfg s.busWidth i).rx ∧
      t = advance (busReceiver i rx
        { s with
          txIn := r,
          dev := (receive d s.busWidth (busAnytime i) s.afterAbort (busEffect s.cfg i) (settle d.done s.dev)).1,
          trace := s.trace ++ [.tx (descriptor s.cfg s.busWidth i) (.ok rx)] }) := by
  obtain ⟨_, rfl⟩ := exec_bus_next hi h
  rw [transact_ok htx hfail]
  simp only [descriptor_w]
  exact ⟨_, fitBytes_length _ _, rfl⟩

/-- Settles O32: the advance of a completed transaction (`exec_bus_ok`), and which registers the received bytes go
to. -/
theorem successfulBusCommandsKeepTheSequencer : Obligations.SuccessfulBusCommandsKeepTheSequencer := by
  intro s t d r i hi htx hfail hexec
  obtain ⟨rx, _, rfl⟩ := exec_bus_ok hi htx hfail hexec
  simp only [advance_seq, advance_result, advance_lifecycle, advance_ctrlBusy, advance_cursor, advance_pollCount,
    advance_idleCount, advance_drawn, advance_idBytes, advance_srByte, advance_afterAbort, busReceiver_seq,
    busReceiver_result, busReceiver_lifecycle, busReceiver_ctrlBusy, busReceiver_cursor, busReceiver_pollCount,
    busReceiver_idleCount, busReceiver_drawn, true_and]
  refine ⟨fun h => busReceiver_idBytes h _ _, fun h => ⟨busReceiver_srByte h _ _, busReceiver_afterAbort h _ _⟩, ?_⟩
  rintro rfl
  exact ⟨rx.getD 0 0, rfl, rfl⟩

/-! ### The host's memory -/

/-- Outside READ there is no window to receive (44_read R218). -/
theorem busReceiver_hostMem_of_not_read {s : State} (hop : runningOp s ≠ some .read) (i : Instr) (rx : List Byte) :
    (busReceiver i rx s).hostMem = s.hostMem := by
  cases i with
  | frqio =>
    simp only [busReceiver, recvWindow]
    split
    next hread _ _ => exact absurd hread hop
    · rfl
  | init | eraseChip | eraseSector | eraseBlock32K | eraseBlock64K | read | program | rdid | wren | qpien | srp |
  rdsr | pp
  | ser | be32k | be64k | cer => rfl

/-- Received bytes reach no byte of the host outside the current window, and none at all but for FRQIO (44_read
R218). -/
theorem memGet_busReceiver {s : State} (hm : memWf hostDefault s.hostMem) {w : Window} {b : Nat}
    (hwin : currentWindow s = some w) (hbuf : s.buf = some b) {i : Instr} {rx : List Byte} {x : Nat}
    (hx : ∀ a n, i = .frqio a n → x < b + w.off ∨ b + w.off + rx.length ≤ x) :
    memGet hostDefault (busReceiver i rx s).hostMem x = memGet hostDefault s.hostMem x := by
  by_cases hop : runningOp s = some .read
  · by_cases hi : ∃ a n, i = .frqio a n
    · obtain ⟨a, n, rfl⟩ := hi
      rw [busReceiver, recvWindow_of_read hop hwin hbuf]
      exact memGet_memWrite_outside hm (hx a n rfl)
    · rw [busReceiver_hostMem fun a n h => hi ⟨a, n, h⟩]
  · rw [busReceiver_hostMem_of_not_read hop]

/-- Settles O35: the bytes of a completed FRQIO are as many as it asks for (`memGet_busReceiver`); those a failure
spoils begin at the window (`memGet_spoilBuffer`). -/
theorem hostMemoryFrame : Obligations.HostMemoryFrame := by
  intro s t i hi hm hexec
  refine ⟨fun hop => ?_, fun w b n hop hwin hbuf hlen hfit hreq x hx => ?_, fun w b d r hop hwin hbuf htx hfail => ?_⟩
  · obtain ⟨_, u, hu, hend⟩ := exec_bus_cases hi hexec
    have hop' : runningOp u ≠ some .read := by simpa [hu, runningOp] using hop
    have hmem : u.hostMem = s.hostMem := by simp [hu]
    obtain ⟨rx, _, rfl⟩ | ⟨info, rfl⟩ := hend
    · rw [advance_hostMem, busReceiver_hostMem_of_not_read hop', hmem]
    · rw [raiseError_hostMem, spoilBuffer_of_not_read hop', hmem]
  · obtain ⟨_, u, hu, hend⟩ := exec_bus_cases hi hexec
    have hmem : u.hostMem = s.hostMem := by simp [hu]
    have hop' : runningOp u = some .read := by simpa [hu, runningOp] using hop
    have hwin' : currentWindow u = some w := by simpa [hu, currentWindow] using hwin
    have hbuf' : u.buf = some b := by simpa [hu] using hbuf
    rw [← hmem] at hm ⊢
    obtain ⟨rx, hrx, rfl⟩ | ⟨info, rfl⟩ := hend
    · rw [advance_hostMem]
      refine memGet_busReceiver hm hwin' hbuf' ?_
      rintro a m rfl
      have hm' : rx.length = m := hrx
      have := hreq a m rfl
      omega
    · rw [raiseError_hostMem]
      exact memGet_spoilBuffer hm hop' hwin' hbuf' (by simpa [hu] using hlen) hx
  · obtain ⟨rx, hrx, rfl⟩ := exec_bus_ok hi htx hfail hexec
    refine ⟨?_, fun hne => ?_⟩
    · rintro a m rfl x hx
      have hm' : rx.length = m := hrx
      refine memGet_busReceiver (s := { s with txIn := r, dev := _, trace := _ }) hm hwin hbuf fun _ _ _ => ?_
      rw [hm']
      exact hx
    · rw [advance_hostMem, busReceiver_hostMem hne]

/-- An error of a READ at a window spoils no byte of BUF before it, and none outside BUF (44_read R220). -/
theorem raiseError_read {s : State} (hm : memWf hostDefault s.hostMem) {w : Window} {b : Nat} {n : Word}
    (hop : runningOp s = some .read) (hwin : currentWindow s = some w) (hbuf : s.buf = some b) (hlen : s.len = some n)
    (code : Byte) (info : Info) :
    (raiseError code info s).result = ⟨code, info⟩ ∧ (raiseError code info s).ctrlBusy = false ∧
      (raiseError code info s).seq = .idle ∧ memWf hostDefault (raiseError code info s).hostMem ∧
      ∀ x, x < b + w.off ∨ b + n.toNat ≤ x →
        memGet hostDefault (raiseError code info s).hostMem x = memGet hostDefault s.hostMem x := by
  rw [raiseError_hostMem]
  exact ⟨raiseError_result .., raiseError_ctrlBusy .., raiseError_seq .., memWf_spoilBuffer hm,
    fun x => memGet_spoilBuffer hm hop hwin hbuf hlen⟩

/-- Settles O37: both errors of a READ at a window are raised there (`raiseError_read`). -/
theorem failedReadKeepsTheWindowsBefore : Obligations.FailedReadKeepsTheWindowsBefore := by
  intro s w b n hwin hbuf hlen hm
  refine ⟨fun d r pc e k hseq htx hfail => ?_, fun r k hrun hbusy hbound hle => ?_⟩
  · have hexec := exec_bus (s := s) (i := .frqio (BitVec.ofNat 24 w.addr) w.len) rfl trivial
    rw [transact_err htx hfail] at hexec
    exact ⟨_, hexec, raiseError_read (s := { s with txIn := r, dev := _, trace := _ }) hm
      (runningOp_of_seq (pc := pc) hseq) hwin hbuf hlen _ _⟩
  · have hreached : boundReached s.cfg.maxIdleQueries (s.idleCount.getD 0 + 1) = true := by
      rw [hbound, boundReached_of_le hle]
    have hstep := step_waitIdle hrun rfl
    rw [stepWaitIdle_bound hbusy hreached] at hstep
    obtain ⟨_, _, _, hseq⟩ := hrun
    exact ⟨_, hstep, raiseError_read (s := { s with busyIn := r, transportBusy := true, trace := _ }) hm
      (runningOp_of_seq (pc := 2) hseq) hwin hbuf hlen _ _⟩

end Sys2Proof.Machine
end

section
/-! PROOFS. What leaves the device open: a failed transaction (20_memory R85, 60_exceptions R269), the wrong width
(R84), a power cycle (70_reset R302, R309). -/
namespace Sys2Proof.Machine
open Sys2Proof

/-! ### A torn write -/

@[simp] theorem tearWrite_readParam (dev : Device) : (tearWrite dev).readParam = dev.readParam := by
  unfold tearWrite; split <;> rfl
@[simp] theorem tearWrite_mode (dev : Device) : (tearWrite dev).mode = dev.mode := by
  unfold tearWrite; split <;> rfl

/-- Where no write of the array is in progress nothing is torn. -/
theorem tearWrite_of_no_region {dev : Device} (h : dev.pending = none ∨ dev.pending = some .other) :
    tearWrite dev = dev := by
  rcases h with h | h <;> simp [tearWrite, h]

/-- A write that an idle device accepted and that was torn: its bytes are unspecified, after WIP is 0 again too, and
every other byte is as before (60_exceptions R269). -/
theorem tearWrite_acceptWrite {dev : Device} {p : Pending} (hidle : dev.pending = none) (hp : p ≠ .unknown) :
    (∀ x, pendingAt (some p) x = true →
      deviceByte (tearWrite (acceptWrite p dev)) x = none ∧
        deviceByte (completeWrite (tearWrite (acceptWrite p dev))) x = none) ∧
      ∀ x, pendingAt (some p) x = false → deviceByte (tearWrite (acceptWrite p dev)) x = deviceByte dev x := by
  have hknown (x : Nat) : (acceptWrite p dev).pending = some .unknown → x < capacity :=
    fun h => absurd (Option.some.inj h) hp
  refine ⟨fun x hx => ⟨?_, deviceByte_completeWrite_tearWrite (hknown x) hx⟩, fun x hx => ?_⟩
  · rw [deviceByte_tearWrite (hknown x)]
    exact deviceByte_of_pendingAt hx
  · rw [deviceByte_tearWrite (hknown x)]
    exact deviceByte_acceptWrite_out hidle hx

/-! ### A failed transaction -/

/-- Whether the transport reports a failure is nothing to the device: it takes the same effect. -/
theorem busEffect_fail (c : Config) (i : Instr) (d : TxDraw) (f : Option (Nat × Reach)) (dev : Device) :
    busEffect c i { d with fail := f } dev = busEffect c i d dev := by
  cases i <;> rfl

theorem receive_fail (d : TxDraw) (f : Option (Nat × Reach)) (w : Width) (anytime aborted : Bool) (c : Config)
    (i : Instr) (dev : Device) :
    receive { d with fail := f } w anytime aborted (busEffect c i) dev
      = receive d w anytime aborted (busEffect c i) dev := by
  simp only [receive, busEffect_fail]

/-- The device a failed transaction leaves, beside the one that it leaves where the transport does not fail. -/
theorem exec_bus_failed {s t : State} {d : TxDraw} {r : List TxDraw} {i : Instr} {e : Nat} {k : Reach}
    (hi : opOf i = none) (htx : s.txIn = d :: r) (hexec : exec i s = .next t) (hfail : d.fail = some (e, k)) :
    ∃ u, exec i { s with txIn := { d with fail := none } :: r } = .next u ∧
      u.dev = (receive d s.busWidth (busAnytime i) s.afterAbort (busEffect s.cfg i) (settle d.done s.dev)).1 ∧
      t.dev = afterFailure k (settle d.done s.dev) u.dev := by
  obtain ⟨hin, rfl⟩ := exec_bus_next hi hexec
  refine ⟨_, exec_bus hi hin, ?_⟩
  rw [transact_ok (d := { d with fail := none }) rfl rfl, transact_err htx hfail]
  simp only [descriptor_w, receive_fail, advance_dev, busReceiver_dev, raiseError_dev, and_self]

/-- Only a write that the transaction itself started can be torn. -/
theorem afterFailure_torn {dev after : Device} (h : after.pending ≠ some .unknown) (hidle : wip dev.sr = false) :
    afterFailure .torn dev after = tearWrite after := by
  simp [afterFailure, hidle, h]

/-- A busy device, and one that did not understand the transaction, has no write that the transaction started. -/
theorem afterFailure_torn_unstarted {d : TxDraw} {w : Width} {anytime aborted : Bool} {eff : DevEffect} {dev : Device}
    (h : wip dev.sr = true ∨ w ≠ modeWidth dev.mode) :
    afterFailure .torn dev (receive d w anytime aborted eff dev).1 = (receive d w anytime aborted eff dev).1 := by
  rcases h with h | h
  · simp [afterFailure, h]
  · rw [receive_wrong_width d anytime aborted eff h]
    by_cases hw : wip d.after.sr = true
    · simp [afterFailure, hw]
    · have hnone : tearWrite (scramble d.after dev) = scramble d.after dev :=
        tearWrite_of_no_region (.inl (by simp [hw]))
      simp [afterFailure, hnone]

/-- The torn case keeps the registers that the transaction would have left. -/
theorem afterFailure_torn_registers (dev after : Device) :
    (afterFailure .torn dev after).sr = after.sr ∧ (afterFailure .torn dev after).readParam = after.readParam ∧
      (afterFailure .torn dev after).mode = after.mode := by
  simp only [afterFailure]
  split_ifs <;> simp

/-- Settles O28: `exec_bus_failed` gives the device beside that of a success; a torn write is
`tearWrite_acceptWrite`. -/
theorem failedTransactionWasLostCarriedOutOrTorn : Obligations.FailedTransactionWasLostCarriedOutOrTorn := by
  intro s t d r i e hi htx hexec
  refine ⟨fun hfail => ?_, fun hfail => ?_, fun hfail => ?_⟩
  · obtain ⟨_, _, _, ht⟩ := exec_bus_failed hi htx hexec hfail
    exact ht
  · obtain ⟨u, hu, _, ht⟩ := exec_bus_failed hi htx hexec hfail
    exact ⟨u, hu, ht⟩
  · obtain ⟨u, hu, hdev, ht⟩ := exec_bus_failed hi htx hexec hfail
    obtain ⟨hsr, hparam, hmode⟩ := afterFailure_torn_registers (settle d.done s.dev) u.dev
    refine ⟨u, _, hu, rfl, ht ▸ hsr, ht ▸ hparam, ht ▸ hmode, fun h => ?_, fun hidle hw hnone => ?_⟩
    · rw [ht, hdev]
      exact afterFailure_torn_unstarted h
    · have haccepted {p : Pending} (hp : p ≠ .unknown)
          (heff : busEffect s.cfg i d (settle d.done s.dev) = (acceptWrite p (settle d.done s.dev), [])) :
          t.dev = tearWrite (acceptWrite p (settle d.done s.dev)) := by
        rw [receive_understood d _ hw (.inr hidle), heff] at hdev
        rw [ht, hdev]
        exact afterFailure_torn (by simpa [acceptWrite] using hp) hidle
      refine ⟨fun h => ?_, fun a v hpp hwel hprot => ?_, fun a g hcase hwel hprot => ?_⟩
      · have hknown : u.dev.pending ≠ some .unknown := by rcases h with h | h <;> simp [h]
        rw [ht, afterFailure_torn hknown hidle, tearWrite_of_no_region h]
      · subst hpp
        rw [haccepted (by simp) (devPp_accepted hwel hprot d)]
        obtain ⟨hin, hout⟩ := tearWrite_acceptWrite (p := .program a.toNat v) hnone (by simp)
        exact ⟨fun j hj => hin _ ((pendingAt_program ..).mpr ⟨j, hj, rfl⟩),
          fun x hx => hout x (pendingAt_program_false.mpr hx)⟩
      · have he : Erases a i g := by
          rcases hcase with ⟨rfl, rfl⟩ | ⟨rfl, rfl⟩ | ⟨rfl, rfl⟩ | ⟨rfl, rfl⟩
          exacts [.ser, .be32k, .be64k, .cer]
        rw [haccepted (by simp) (he.effect s.cfg ▸ devErase_accepted hwel hprot d)]
        obtain ⟨hin, hout⟩ := tearWrite_acceptWrite (p := .erase g) hnone (by simp)
        exact ⟨fun x hlow hhigh => hin x ((inRange_iff g x).mpr ⟨hlow, hhigh⟩),
          fun x hx => hout x ((inRange_false_iff g x).mpr hx)⟩

/-! ### The wrong width, and a power cycle -/

/-- What an unconstrained device answers: nothing known while it writes, else its free content where no torn write left
a byte in doubt (20_memory R84). -/
theorem deviceByte_scramble (p : Scramble) (dev : Device) {x : Nat} (hx : x < capacity) :
    (wip p.sr = true → deviceByte (scramble p dev) x = none) ∧
      (wip p.sr = false → dev.doubt.any (fun q => inRange q x) = false →
        deviceByte (scramble p dev) x = some (Config.freeContent p.content x)) := by
  refine ⟨fun hw => deviceByte_of_pendingAt ?_, fun hw hdoubt => ?_⟩
  · rw [scramble_pending, if_pos hw]
    rfl
  · rw [deviceByte_of, arrayByte_scramble p dev hx]
    · rw [scramble_pending, if_neg (by simp [hw])]
      rfl
    · exact hdoubt

/-- What a device answers after a power cycle: the region of a write in progress is unspecified, the rest is as before
(70_reset R302, R309). -/
theorem deviceByte_powerCycle (sr p : Byte) (dev : Device) (x : Nat) :
    (pendingAt dev.pending x = false → deviceByte (powerCycle sr p dev) x = deviceByte dev x) ∧
      (x < capacity → pendingAt dev.pending x = true → deviceByte (powerCycle sr p dev) x = none) := by
  have hpending : pendingAt (powerCycle sr p dev).pending x = false := by
    simp only [powerCycle]
    split_ifs <;> rfl
  have hbyte : arrayByte (powerCycle sr p dev) x = arrayByte dev x := by
    obtain ⟨harray, hcontent, hunerased⟩ := sameArray_tearWrite dev
    exact arrayByte_congr ⟨harray, hcontent, hunerased⟩ x
  have hdoubt (h : dev.pending = some .unknown → x < capacity) :
      (powerCycle sr p dev).doubt.any (fun r => inRange r x)
        = (pendingAt dev.pending x || dev.doubt.any (fun r => inRange r x)) := any_doubt_tearWrite h
  refine ⟨fun hout => ?_, fun hx hin => ?_⟩
  · have hknown : dev.pending = some .unknown → x < capacity := fun h => by rw [h] at hout; cases hout
    simp only [deviceByte, hpending, hbyte, hdoubt hknown, hout, Bool.false_or]
  · simp only [deviceByte, hdoubt fun _ => hx, hin, Bool.true_or, Bool.or_true, if_true]

/-- Settles O29: at the wrong width the device is `scramble`d (`receive_wrong_width`); a power cycle tears the write in
progress and draws the registers (`deviceByte_powerCycle`). -/
theorem wrongWidthAndPowerCycleLeaveTheDeviceOpen : Obligations.WrongWidthAndPowerCycleLeaveTheDeviceOpen := by
  refine ⟨fun s d r i hi hwf hc htx hfail hwidth => ?_, fun s sr p => ?_⟩
  · have hexec := exec_bus (s := s) hi (busInside_of_wellFormed hc hwf)
    rw [transact_ok htx hfail] at hexec
    simp only [descriptor_w] at hexec
    rw [receive_wrong_width d _ _ _ (by rwa [settle_mode])] at hexec
    have hbyte (x : Nat) (hx : x < capacity) := deviceByte_scramble d.after (settle d.done s.dev) hx
    refine ⟨_, hexec, ?_⟩
    simp only [advance_dev, busReceiver_dev, advance_seq, busReceiver_seq, scramble_sr, scramble_readParam,
      scramble_mode, scramble_chip, settle_chip, true_and]
    exact ⟨fun hw x hx => (hbyte x hx).1 hw, fun hw x hx => (hbyte x hx).2 hw⟩
  · exact ⟨_, rfl, rfl, rfl, rfl, tearWrite_chip _, fun x => (deviceByte_powerCycle sr p s.dev x).1,
      fun x => (deviceByte_powerCycle sr p s.dev x).2⟩

end Sys2Proof.Machine
end

section
/-! PROOFS. The host's interface: CMD, the operand registers, the host's reads, reset (30_encoding R102, 10_state
R23-R31, 70_reset R290, R291). -/
namespace Sys2Proof.Machine
open Sys2Proof

/-- Settles O5: the step of a CMD write. -/
theorem stepRunsTheCommandWritten : Obligations.StepRunsTheCommandWritten :=
  fun _ _ _ _ hc hhost hfree hdecode => step_command hc hhost hfree hdecode

/-- The statement behind a sequenced command (10_state R33). -/
theorem sequencedCommand_eq_some {s : State} {i : Instr} (h : sequencedCommand s = some i) :
    ∃ op pc b, s.seq = .at op pc ∧ (ruleOf op)[pc]? = some (.issue b) ∧ busCommand op b s = .ok i := by
  unfold sequencedCommand at h
  split at h
  · cases h
  next op pc hseq =>
    split at h
    next b hst =>
      refine ⟨op, pc, b, hseq, hst, ?_⟩
      cases hi : busCommand op b s with
      | ok j => rw [hi] at h; cases h; rfl
      | error f => rw [hi] at h; cases h
    · cases h

/-- RDSR is the status read's command and no other statement's (46_status_poll R250). -/
theorem busCommand_rdsr_iff {op : Op} {b : BusStmt} {s : State} {i : Instr} (h : busCommand op b s = .ok i) :
    b = .rdsr ↔ i = .rdsr := by
  cases b with
  | rdid | wren | qpien | srp | rdsr => cases h; simp
  | erase => obtain ⟨_, rfl⟩ | ⟨_, _, ⟨_, rfl⟩ | ⟨_, rfl⟩ | ⟨_, rfl⟩⟩ := eraseCommand_eq_ok h <;> simp
  | frqio => obtain ⟨_, _, rfl⟩ := readCommand_eq_ok h; simp
  | pp => obtain ⟨_, _, _, _, rfl⟩ := programCommand_eq_ok h; simp

/-- The step at a statement that issues a bus command. -/
theorem step_issue {s : State} {op : Op} {pc : Nat} {b : BusStmt} {i : Instr} (hrun : Running s op pc)
    (hst : (ruleOf op)[pc]? = some (.issue b)) (hi : busCommand op b s = .ok i) :
    step s = exec i (beforeIssue b s) := by
  obtain ⟨hvalid, hwait, hbusy, hseq⟩ := hrun
  rw [step_at hvalid hwait hbusy hseq hst]
  simp only [runStmt, hi]

/-- Settles O6: the step at the statement behind the command; a status read alone starts its poll first. -/
theorem stepRunsTheSequencedCommand : Obligations.StepRunsTheSequencedCommand := by
  intro s i hc hwait hbusy hcommand
  obtain ⟨op, pc, b, hseq, hst, hi⟩ := sequencedCommand_eq_some hcommand
  rw [step_issue ⟨hc, hwait, hbusy, hseq⟩ hst hi]
  refine ⟨fun hne => ?_, ?_⟩
  · rw [beforeIssue_of_ne (mt (busCommand_rdsr_iff hi).mp hne)]
  · rintro rfl
    rw [(busCommand_rdsr_iff hi).mpr rfl]
    rfl

/-- Settles O7: an accepted operation is `startOp`. -/
theorem acceptedOperationStarts : Obligations.AcceptedOperationStarts := by
  intro s hfree
  refine ⟨fun hl => issueOp_accepted hfree (by simpa [acceptedIn] using hl), fun hl => ?_⟩
  have hready {op : Op} (hop : op ≠ .init) : issueOp op s = .next (startOp op s) := by
    refine issueOp_accepted hfree ?_
    rw [hl]
    cases op <;> simp_all [acceptedIn]
  exact ⟨hready nofun, hready nofun, hready nofun, hready nofun, hready nofun, hready nofun⟩

/-- Settles O11: such a configuration is not `Config.Valid`, which a step checks first. -/
theorem badConfigurationIsRefused : Obligations.BadConfigurationIsRefused := by
  intro s h
  have hc : ¬s.cfg.Valid := by
    rintro ⟨hpos, hdvd, hnodup, _⟩
    rcases h with h | h | h
    · exact h hdvd
    · omega
    · exact h hnodup
  exact if_neg hc

/-! ### Operand registers -/

theorem writeOperand_free {s : State} (hfree : s.ctrlBusy = false) (t : State) : writeOperand s t = .next t := by
  simp [writeOperand, hfree]

theorem operand_none {α : Type} (r : Operand) : operand r (none : Option α) = .error (.unsetOperand r) := rfl

theorem operand_some {α : Type} (r : Operand) (x : α) : operand r (some x) = .ok x := rfl

/-- The index check of an unset INDEX (10_state R28). -/
theorem step_checkIndex_unset {s : State} {op : Op} (hrun : Running s op 0)
    (hst : (ruleOf op)[0]? = some .checkIndex) (h : s.index = none) : step s = .fault (.unsetOperand .index) := by
  obtain ⟨hvalid, hwait, hbusy, hseq⟩ := hrun
  rw [step_at hvalid hwait hbusy hseq hst]
  simp [runStmt, stepCheckIndex, h, operand_none]

/-- The bounds check of an unset ADDR or LEN (10_state R28). -/
theorem step_checkRange_unset {s : State} {op : Op} (hrun : Running s op 0)
    (hst : (ruleOf op)[0]? = some .checkRange) :
    (s.addr = none → step s = .fault (.unsetOperand .addr)) ∧
      ∀ a, s.addr = some a → s.len = none → step s = .fault (.unsetOperand .len) := by
  obtain ⟨hvalid, hwait, hbusy, hseq⟩ := hrun
  rw [step_at hvalid hwait hbusy hseq hst]
  exact ⟨fun h => by simp [runStmt, stepCheckRange, h, operand_none],
    fun a ha h => by simp [runStmt, stepCheckRange, ha, h, operand_none, operand_some]⟩

/-- The window's transaction with BUF unset (10_state R28). -/
theorem step_window_unset {s : State} {op : Op} {pc : Nat} {w : Window}
    (h : op = .read ∧ Running s op pc ∧ pc = 3 ∨ op = .program ∧ Running s op pc ∧ pc = 4)
    (hwin : currentWindow s = some w) (hbuf : s.buf = none) : step s = .fault (.unsetOperand .buf) := by
  rcases h with ⟨rfl, hrun, rfl⟩ | ⟨rfl, hrun, rfl⟩ <;>
    obtain ⟨hvalid, hwait, hbusy, hseq⟩ := hrun
  · rw [step_at (st := .issue .frqio) hvalid hwait hbusy hseq rfl]
    simp [runStmt, busCommand, readCommand, hwin, hbuf, operand_none, Except.map]
  · rw [step_at (st := .issue .pp) hvalid hwait hbusy hseq rfl]
    simp [runStmt, busCommand, programCommand, hwin, hbuf, operand_none, Except.map]

theorem hostAct_readReg_ok {r : HostReg} {s : State} {v : HostValue} (h : hostReadValue r s = .ok v) :
    hostAct (.readReg r) s = .next { s with hostRead := some v } := by
  simp [hostAct, readRegister, h]

theorem hostAct_readReg_error {r : HostReg} {s : State} {f : Fault} (h : hostReadValue r s = .error f) :
    hostAct (.readReg r) s = .fault f := by
  simp [hostAct, readRegister, h]

/-- Settles O12: writes by `writeOperand_free`, unset reads by the statement's check or by `operand_none`, the host's
reads by `hostAct_readReg_ok`. -/
theorem operandRegistersAreWrittenAndRead : Obligations.OperandRegistersAreWrittenAndRead := by
  intro s op
  refine ⟨fun hfree => ?_, ?_, ?_, ?_, ?_, ?_, ?_, ?_, ?_, ?_, ?_, ?_, ?_, ?_, hostAct_readReg_ok rfl,
    hostAct_readReg_ok rfl⟩
  · have hwrite := writeOperand_free hfree
    exact ⟨fun _ => hwrite _, fun _ => hwrite _, fun _ => hwrite _, fun _ => hwrite _⟩
  · rintro (rfl | rfl | rfl) hrun h <;> exact step_checkIndex_unset hrun rfl h
  · rintro (rfl | rfl) hrun h <;> exact (step_checkRange_unset hrun rfl).1 h
  · rintro a (rfl | rfl) hrun ha h <;> exact (step_checkRange_unset hrun rfl).2 a ha h
  · rintro w (⟨hop, hrun⟩ | ⟨hop, hrun⟩) hwin hbuf
    · exact step_window_unset (.inl ⟨hop, hop ▸ hrun, rfl⟩) hwin hbuf
    · exact step_window_unset (.inr ⟨hop, hop ▸ hrun, rfl⟩) hwin hbuf
  · exact fun h => hostAct_readReg_error (by simp [hostReadValue, h, operand_none, Except.map])
  · exact fun h => hostAct_readReg_error (by simp [hostReadValue, h, operand_none, Except.map])
  · exact fun h => hostAct_readReg_error (by simp [hostReadValue, h, operand_none, Except.map])
  · exact fun h => hostAct_readReg_error (by simp [hostReadValue, h, operand_none, Except.map])
  · exact fun v h => hostAct_readReg_ok (by simp [hostReadValue, h, operand_some, Except.map])
  · exact fun v h => hostAct_readReg_ok (by simp [hostReadValue, h, operand_some, Except.map])
  · exact fun v h => hostAct_readReg_ok (by simp [hostReadValue, h, operand_some, Except.map])
  · exact fun v h => hostAct_readReg_ok (by simp [hostReadValue, h, operand_some, Except.map])
  · exact ⟨s.lifecycle.bits, hostAct_readReg_ok rfl, fun h => h ▸ rfl, fun h => h ▸ rfl, fun h => h ▸ rfl⟩

/-! ### Reset -/

/-- Settles O13: `resetController` field by field; in UNINIT INIT alone is accepted (`acceptedIn_eq_false`). -/
theorem resetLeavesTheResetValues : Obligations.ResetLeavesTheResetValues := by
  intro s w busy
  refine ⟨resetController w busy s, rfl, rfl, rfl, rfl, rfl, rfl, rfl, rfl, rfl, rfl, rfl, rfl, rfl, rfl, rfl, rfl, rfl,
    rfl, (acceptedOperationStarts _ rfl).1 (by decide : Lifecycle.uninit ≠ .ready), fun i op hi hop => ?_⟩
  have hrejected := issueOp_rejected (s := resetController w busy s) rfl
    (acceptedIn_eq_false (.inr ⟨hop, (by decide : Lifecycle.uninit ≠ .ready)⟩))
  exact ⟨_, (exec_op hi _).trans hrejected, rfl, rfl, busEvents_endOp _ _ _⟩

end Sys2Proof.Machine
end

section
/-! PROOFS. What a step keeps: the parameters, the chip, the past of the trace; and, while the host waits, everything
the host wrote (10_state sections 1 and 2, 70_reset section 1, R301). -/
namespace Sys2Proof.Machine
open Sys2Proof

/-! ### Parameters, chip, trace -/

/-- `t` has the parameters and the chip of `s`, and its trace goes on from that of `s`. -/
structure Continues (s t : State) : Prop where
  cfg   : t.cfg = s.cfg
  chip  : t.dev.chip = s.dev.chip
  trace : ∃ e, t.trace = s.trace ++ e

theorem Continues.of_eq {s t : State} (hcfg : t.cfg = s.cfg) (hdev : t.dev = s.dev) (htrace : t.trace = s.trace) :
    Continues s t :=
  ⟨hcfg, by rw [hdev], [], by simp [htrace]⟩

theorem Continues.trans {s t u : State} (h : Continues s t) (g : Continues t u) : Continues s u := by
  obtain ⟨hcfg, hchip, e, htrace⟩ := h
  obtain ⟨gcfg, gchip, f, gtrace⟩ := g
  exact ⟨gcfg.trans hcfg, gchip.trans hchip, e ++ f, by rw [gtrace, htrace, List.append_assoc]⟩

theorem continues_raiseError (code : Byte) (info : Info) (s : State) : Continues s (raiseError code info s) :=
  ⟨by simp, by simp, _, raiseError_trace ..⟩

theorem continues_queryBusy (s : State) : Continues s (queryBusy s) :=
  ⟨by simp, by simp, [.busy (nextBusy s).1], by simp [queryBusy]⟩

theorem continues_exec_bus {s t : State} {i : Instr} (hi : opOf i = none) (h : exec i s = .next t) : Continues s t := by
  obtain ⟨hin, u, hu, hend⟩ := exec_bus_cases hi h
  have hcont : Continues s u := by
    subst hu
    exact ⟨by simp, by simp [transactDevice_chip (tame_busEffect hin)], _, afterTransact_trace ..⟩
  obtain ⟨rx, _, rfl⟩ | ⟨info, rfl⟩ := hend
  · exact hcont.trans (.of_eq (by simp) (by simp) (by simp))
  · exact hcont.trans (continues_raiseError ..)

theorem continues_runStmt {s t : State} {op : Op} {pc : Nat} {st : Stmt} (hs : runStmt op pc st s = .next t) :
    Continues s t := by
  cases st with
  | issue b =>
    obtain ⟨i, hi, hexec⟩ := runStmt_issue_next hs
    exact .trans (t := beforeIssue b s) (.of_eq (by simp) (by simp) (by simp))
      (continues_exec_bus (opOf_busCommand hi) hexec)
  | setWidth w => cases hs; exact ⟨rfl, rfl, [.width w], rfl⟩
  | waitIdle =>
    cases hs
    obtain ⟨_, ht⟩ | ⟨_, ⟨_, ht⟩ | ⟨_, ht⟩⟩ := stepWaitIdle_cases s <;> rw [ht]
    · exact (continues_queryBusy s).trans (.of_eq rfl rfl rfl)
    · exact (continues_queryBusy s).trans (continues_raiseError ..)
    · exact (continues_queryBusy s).trans (.of_eq rfl rfl rfl)
  | checkId =>
    obtain ⟨_, _, ⟨_, rfl⟩ | ⟨_, rfl⟩⟩ := stepCheckId_next hs
    · exact .of_eq rfl rfl rfl
    · exact continues_raiseError ..
  | checkIndex =>
    obtain ⟨_, _, ⟨_, rfl⟩ | ⟨_, rfl⟩⟩ := stepCheckIndex_next hs
    · exact continues_raiseError ..
    · exact .of_eq rfl rfl rfl
  | checkRange =>
    obtain ⟨_, _, _, _, ⟨_, rfl⟩ | ⟨_, rfl⟩⟩ := stepCheckRange_next hs
    · exact continues_raiseError ..
    · exact .of_eq rfl rfl rfl
  | forWindow => obtain ⟨_, _, _, _, ⟨_, rfl⟩ | ⟨_, rfl⟩⟩ := stepForWindow_next hs <;> exact .of_eq rfl rfl rfl
  | pollTest =>
    obtain ⟨_, n, _, _, ⟨_, rfl⟩ | ⟨_, _, rfl⟩ | ⟨_, _, rfl⟩⟩ := stepPollTest_next hs
    · exact .of_eq rfl rfl rfl
    · exact .trans (t := { s with pollCount := some (n + 1) }) (.of_eq rfl rfl rfl) (continues_raiseError ..)
    · exact .of_eq rfl rfl rfl
  | finishInit | finish => cases hs; exact ⟨rfl, rfl, _, rfl⟩

theorem continues_hostAct {s t : State} {a : HostAction} (hs : hostAct a s = .next t) : Continues s t := by
  cases a with
  | writeCmd b =>
    obtain ⟨_, ⟨_, _, rfl⟩ | ⟨_, _, rfl⟩⟩ := writeCommand_next hs
    · exact .of_eq rfl rfl rfl
    · exact ⟨rfl, rfl, _, rfl⟩
  | writeAddr | writeLen | writeIndex | writeBuf => obtain ⟨_, rfl⟩ := writeOperand_next hs; exact .of_eq rfl rfl rfl
  | store => obtain ⟨_, rfl⟩ := hostStore_next hs; exact .of_eq rfl rfl rfl
  | readReg => obtain ⟨_, _, rfl⟩ := readRegister_next hs; exact .of_eq rfl rfl rfl
  | reset => cases hs; exact .of_eq rfl rfl rfl
  | powerCycle sr p => cases hs; exact ⟨rfl, tearWrite_chip _, [], (List.append_nil _).symm⟩

/-- Settles O54: each part of a step continues the state it starts from (`continues_runStmt`, `continues_hostAct`). -/
theorem stepKeepsTheParameters : Obligations.StepKeepsTheParameters := by
  intro s t hs
  have hhost (r : List HostEvent) : Continues s { s with host := r } := .of_eq rfl rfl rfl
  suffices h : Continues s t from ⟨h.cfg, h.chip, h.trace⟩
  obtain ⟨r, hstep, _⟩ | ⟨r, hstep, _⟩ | ⟨a, r, hstep, _⟩ := step_cases s (valid_of_next hs) <;> rw [hstep] at hs
  · obtain ⟨_, rfl⟩ | ⟨op, pc, st, _, _, hrun⟩ := runSequencer_next hs
    · exact hhost r
    · exact (hhost r).trans (continues_runStmt hrun)
  · cases hs; exact hhost r
  · exact (hhost r).trans (continues_hostAct hs)

/-! ### While the host waits -/

/-- A step that the host only waits for is the sequencer's, or takes an `await` away. -/
theorem step_of_hostWaits {s t : State} (hwait : hostWaits s.host = true) (hs : step s = .next t) :
    runSequencer s = .next t ∨ ∃ r, t = { s with host := r } := by
  obtain ⟨r, hstep, hr⟩ | ⟨r, hstep, _⟩ | ⟨a, r, _, hr⟩ := step_cases s (valid_of_next hs)
  · obtain rfl | hr := hr
    · exact .inl (hstep ▸ hs)
    · rw [hr] at hwait; cases hwait
  · rw [hstep] at hs; cases hs; exact .inr ⟨r, rfl⟩
  · rw [hr] at hwait; cases hwait

/-- The operation of `s` still runs in `t`: of what the host sees only BUS_WIDTH may have changed, in INIT, and the mark
of an abort has not been set. -/
structure Runs (s t : State) : Prop where
  op        : runningOp t = runningOp s
  addr      : t.addr = s.addr
  len       : t.len = s.len
  index     : t.index = s.index
  buf       : t.buf = s.buf
  cmd       : t.cmd = s.cmd
  lifecycle : t.lifecycle = s.lifecycle
  result    : t.result = s.result
  ctrlBusy  : t.ctrlBusy = s.ctrlBusy
  width     : runningOp s ≠ some .init → t.busWidth = s.busWidth
  mark      : s.afterAbort = false → t.afterAbort = false

/-- The end of INIT's rule stands in INIT's rule. -/
theorem finishInit_of_rule {op : Op} {pc : Nat} (h : (ruleOf op)[pc]? = some .finishInit) : op = .init := by
  have hlt : pc < (ruleOf op).length := (List.getElem?_eq_some_iff.mp h).1
  cases op <;> simp only [ruleOf, eraseTail, List.length_cons, List.length_nil] at hlt h
  all_goals
    interval_cases pc <;> cases h <;> rfl

/-- Received bytes can clear the mark of an abort, not set it (70_reset R301). -/
theorem busReceiver_mark {s : State} (h : s.afterAbort = false) (i : Instr) (rx : List Byte) :
    (busReceiver i rx s).afterAbort = false := by
  by_cases hi : i = .rdsr
  · subst hi
    simp [busReceiver, h]
  · rw [busReceiver_afterAbort hi, h]

theorem runningOp_advance (s : State) : runningOp (advance s) = runningOp s := by
  unfold runningOp
  rw [advance_seq]
  cases s.seq <;> rfl

section
variable {s t : State}

theorem Runs.advance (h : Runs s t) : Runs s (advance t) :=
  ⟨(runningOp_advance t).trans h.op, h.addr, h.len, h.index, h.buf, h.cmd, h.lifecycle, h.result, h.ctrlBusy, h.width,
    h.mark⟩

theorem Runs.gotoPc (h : Runs s t) {op : Op} (hop : runningOp s = some op) (pc : Nat) : Runs s (gotoPc op pc t) :=
  ⟨hop.symm, h.addr, h.len, h.index, h.buf, h.cmd, h.lifecycle, h.result, h.ctrlBusy, h.width, h.mark⟩

/-- The hidden registers are none of the host's (10_state R34-R37). -/
theorem Runs.hidden (h : Runs s t) (c : Option Cursor) (p i : Option Nat) (b : Option Byte) :
    Runs s { t with cursor := c, pollCount := p, idleCount := i, srByte := b } :=
  ⟨h.op, h.addr, h.len, h.index, h.buf, h.cmd, h.lifecycle, h.result, h.ctrlBusy, h.width, h.mark⟩

theorem Runs.refl (s : State) : Runs s s := ⟨rfl, rfl, rfl, rfl, rfl, rfl, rfl, rfl, rfl, fun _ => rfl, id⟩

theorem runs_queryBusy (s : State) : Runs s (queryBusy s) := by
  constructor <;> simp [runningOp]

theorem Runs.busReceiver (h : Runs s t) (i : Instr) (rx : List Byte) : Runs s (busReceiver i rx t) where
  op := by simpa [runningOp] using h.op
  addr := by simpa using h.addr
  len := by simpa using h.len
  index := by simpa using h.index
  buf := by simpa using h.buf
  cmd := by simpa using h.cmd
  lifecycle := by simpa using h.lifecycle
  result := by simpa using h.result
  ctrlBusy := by simpa using h.ctrlBusy
  width := by simpa using h.width
  mark hmark := busReceiver_mark (h.mark hmark) i rx

end

/-- A statement goes on, or raises an error after some of its work, or is the end of its rule. -/
theorem runStmt_ends {s t : State} {op : Op} {pc : Nat} {st : Stmt} (hseq : s.seq = .at op pc)
    (hst : (ruleOf op)[pc]? = some st) (hs : runStmt op pc st s = .next t) :
    Runs s t ∨ (∃ u code info, Runs s u ∧ t = raiseError code info u) ∨ t = stepFinish s ∨
      op = .init ∧ t = stepFinishInit s := by
  have hop := runningOp_of_seq hseq
  have hself := Runs.refl s
  cases st with
  | issue b =>
    obtain ⟨i, hi, hexec⟩ := runStmt_issue_next hs
    obtain ⟨_, u, hu, hend⟩ := exec_bus_cases (opOf_busCommand hi) hexec
    have hruns : Runs s u := by subst hu; constructor <;> simp [runningOp]
    obtain ⟨rx, _, rfl⟩ | ⟨info, rfl⟩ := hend
    · exact .inl (hruns.busReceiver i rx).advance
    · exact .inr (.inl ⟨u, _, _, hruns, rfl⟩)
  | setWidth w =>
    cases hs
    obtain ⟨rfl, _⟩ := setWidth_of_rule hst
    exact .inl ⟨runningOp_advance _, rfl, rfl, rfl, rfl, rfl, rfl, rfl, rfl, fun h => absurd hop h, id⟩
  | waitIdle =>
    cases hs
    have hq := runs_queryBusy s
    obtain ⟨_, ht⟩ | ⟨_, ⟨_, ht⟩ | ⟨_, ht⟩⟩ := stepWaitIdle_cases s <;> rw [ht]
    · exact .inl (hq.hidden ..).advance
    · exact .inr (.inl ⟨_, _, _, hq, rfl⟩)
    · exact .inl (hq.hidden ..)
  | checkId =>
    obtain ⟨_, _, ⟨_, rfl⟩ | ⟨_, rfl⟩⟩ := stepCheckId_next hs
    · exact .inl hself.advance
    · exact .inr (.inl ⟨_, _, _, hself, rfl⟩)
  | checkIndex =>
    obtain ⟨_, _, ⟨_, rfl⟩ | ⟨_, rfl⟩⟩ := stepCheckIndex_next hs
    · exact .inr (.inl ⟨_, _, _, hself, rfl⟩)
    · exact .inl hself.advance
  | checkRange =>
    obtain ⟨_, _, _, _, ⟨_, rfl⟩ | ⟨_, rfl⟩⟩ := stepCheckRange_next hs
    · exact .inr (.inl ⟨_, _, _, hself, rfl⟩)
    · exact .inl hself.advance
  | forWindow =>
    obtain ⟨_, _, _, _, ⟨_, rfl⟩ | ⟨_, rfl⟩⟩ := stepForWindow_next hs
    · exact .inl (hself.hidden ..).advance
    · exact .inl ((hself.hidden ..).gotoPc hop _)
  | pollTest =>
    obtain ⟨_, n, _, _, ⟨_, rfl⟩ | ⟨_, _, rfl⟩ | ⟨_, _, rfl⟩⟩ := stepPollTest_next hs
    · exact .inl (hself.hidden ..).advance
    · exact .inr (.inl ⟨{ s with pollCount := some (n + 1) }, _, _, hself.hidden .., rfl⟩)
    · exact .inl ((hself.hidden ..).gotoPc hop _)
  | finishInit => cases hs; exact .inr (.inr (.inr ⟨finishInit_of_rule hst, rfl⟩))
  | finish => cases hs; exact .inr (.inr (.inl rfl))

/-- What the host sees of a step that it waits for, said of the three ways a statement can end. -/
structure QuietStep (s t : State) : Prop where
  addr  : t.addr = s.addr
  len   : t.len = s.len
  index : t.index = s.index
  buf   : t.buf = s.buf
  cmd   : t.cmd = s.cmd
  init  : runningOp s ≠ some .init → t.lifecycle = s.lifecycle ∧ t.busWidth = s.busWidth
  result : (runningOp s ≠ none → s.ctrlBusy = true) → t.ctrlBusy = s.ctrlBusy → t.result = s.result
  mark  : s.afterAbort = false →
    (t.afterAbort = true ↔
      t.seq = .idle ∧ (t.result.code = 1 ∨ t.result.code = 4) ∧ ∃ op, runningOp s = some op ∧ op ≠ .read)

theorem seq_ne_idle_of_runningOp {s : State} {op : Op} (h : runningOp s = some op) : s.seq ≠ .idle := by
  intro hidle
  rw [runningOp, hidle] at h
  cases h

/-- An operation that goes on, or none, ends nothing. -/
theorem Runs.quietStep {s t : State} (h : Runs s t) : QuietStep s t where
  addr := h.addr
  len := h.len
  index := h.index
  buf := h.buf
  cmd := h.cmd
  init hinit := ⟨h.lifecycle, h.width hinit⟩
  result _ _ := h.result
  mark hmark := by
    rw [h.mark hmark]
    refine iff_of_false (by decide) ?_
    rintro ⟨hidle, _, op, hop, _⟩
    exact seq_ne_idle_of_runningOp (h.op.trans hop) hidle

/-- An error raised in a running operation (60_exceptions R267, 70_reset R301). -/
theorem quietStep_raiseError {s u : State} {op : Op} (hop : runningOp s = some op) (h : Runs s u) (code : Byte)
    (info : Info) : QuietStep s (raiseError code info u) where
  addr := by simpa using h.addr
  len := by simpa using h.len
  index := by simpa using h.index
  buf := by simpa using h.buf
  cmd := by simpa using h.cmd
  init hinit := by simpa [h.op, hinit, h.lifecycle] using h.width hinit
  result hbusy hfree := by
    rw [raiseError_ctrlBusy, hbusy (by simp [hop])] at hfree
    cases hfree
  mark hmark := by
    rw [raiseError_afterAbort, h.mark hmark, Bool.false_or, mayLeaveBusy_iff, h.op, raiseError_seq, raiseError_result]
    exact ⟨fun h => ⟨rfl, h⟩, And.right⟩

/-- The end of a rule (30_encoding R102). -/
theorem quietStep_finish {s : State} {op : Op} (hop : runningOp s = some op) {l : Lifecycle}
    (hl : op ≠ .init → l = s.lifecycle) : QuietStep s (stepFinish { s with lifecycle := l }) where
  addr := rfl
  len := rfl
  index := rfl
  buf := rfl
  cmd := rfl
  init hinit := ⟨hl fun h => hinit (h ▸ hop), rfl⟩
  result hbusy hfree := by
    rw [stepFinish, endOp_ctrlBusy, hbusy (by simp [hop])] at hfree
    cases hfree
  mark hmark := by
    refine iff_of_false (by simp [stepFinish, hmark]) ?_
    rintro ⟨_, hcode, _⟩
    revert hcode
    exact (by decide : ¬(codeOk = 1 ∨ codeOk = 4))

/-- Settles O55: a statement goes on, raises, or ends its rule (`runStmt_ends`); each is a quiet step. -/
theorem onlyInitWritesLifecycleAndWidth : Obligations.OnlyInitWritesLifecycleAndWidth := by
  intro s t hwait hs
  have hquiet : QuietStep s t := by
    obtain hrun | ⟨r, rfl⟩ := step_of_hostWaits hwait hs
    · obtain ⟨_, rfl⟩ | ⟨op, pc, st, hseq, hst, hrun⟩ := runSequencer_next hrun
      · exact (Runs.refl t).quietStep
      · have hop := runningOp_of_seq hseq
        obtain h | ⟨u, code, info, h, rfl⟩ | rfl | ⟨rfl, rfl⟩ := runStmt_ends hseq hst hrun
        · exact h.quietStep
        · exact quietStep_raiseError hop h code info
        · exact quietStep_finish hop fun _ => rfl
        · exact quietStep_finish hop fun h => absurd rfl h
    · exact Runs.quietStep ⟨rfl, rfl, rfl, rfl, rfl, rfl, rfl, rfl, rfl, fun _ => rfl, id⟩
  have hbusy : s.ctrlBusy = true ∨ Inv s → runningOp s ≠ none → s.ctrlBusy = true := by
    rintro (h | h) hop
    · exact h
    · by_contra hfree
      exact hop (by rw [runningOp, (h.sequencer.idle (by simpa using hfree)).1])
  exact ⟨hquiet.addr, hquiet.len, hquiet.index, hquiet.buf, hquiet.cmd, hquiet.init,
    fun h => hquiet.result (hbusy h), hquiet.mark⟩

end Sys2Proof.Machine
end

section
/-! PROOFS. The statements of a run whose transactions the transport completes (00_scope R7): one step each, and the
poll as a whole (46_status_poll R250-R252). -/
namespace Sys2Proof.Machine
open Sys2Proof

/-! ### A transaction of a run -/

/-- The device after a completed transaction of `i` at width `w`, and the bytes the transport returns (40_bus_primitives
R140). -/
def answered (c : Config) (w : Width) (aborted : Bool) (i : Instr) (d : TxDraw) (dev : Device) : Device × List Byte :=
  let now := receive d w (busAnytime i) aborted (busEffect c i) (settle d.done dev)
  (now.1, fitBytes (descriptor c w i).rx (d.answer.getD now.2))

/-- What the transport returns where the draw carries the answer. -/
theorem answered_rx {c : Config} {w : Width} {aborted : Bool} {i : Instr} {d : TxDraw} {dev : Device} {bs : List Byte}
    (h : d.answer = some bs) (hlen : (descriptor c w i).rx = bs.length) : (answered c w aborted i d dev).2 = bs := by
  simp only [answered, h, Option.getD_some, hlen, fitBytes_of_length]

theorem answered_eq {c : Config} {w : Width} {aborted : Bool} {i : Instr} {d : TxDraw} {dev : Device} {bs : List Byte}
    (h : d.answer = some bs) (hlen : (descriptor c w i).rx = bs.length) :
    answered c w aborted i d dev = ((answered c w aborted i d dev).1, bs) :=
  Prod.ext rfl (answered_rx h hlen)

/-- The device's own answer, where it understands the command: the command's effect on the device as the transaction
finds it. -/
theorem answered_understood {c : Config} {w : Width} {aborted : Bool} {i : Instr} {d : TxDraw} {dev : Device}
    (hi : opOf i = none) (hd : CleanDraw d) (hw : w = modeWidth dev.mode)
    (hb : busAnytime i = true ∨ wip (settle d.done dev).sr = false) :
    answered c w aborted i d dev = busEffect c i d (settle d.done dev) := by
  obtain ⟨_, hans⟩ := hd
  have hrecv := receive_understood d (aborted := aborted) (busEffect c i) (w := w) (dev := settle d.done dev)
    (by rwa [settle_mode]) hb
  simp only [answered, hrecv, hans, Option.getD_none]
  rw [← busEffect_answer_length hi c w d, fitBytes_of_length]

/-- A step at a statement that issues a bus command, other than a status read. -/
theorem step_issue_ok {s : State} {op : Op} {pc : Nat} {b : BusStmt} {i : Instr} {d : TxDraw} {r : List TxDraw}
    (hrun : Running s op pc) (hst : (ruleOf op)[pc]? = some (.issue b)) (hb : b ≠ .rdsr)
    (hi : busCommand op b s = .ok i) (hin : busInside i) (htx : s.txIn = d :: r) (hfail : d.fail = none) :
    step s = .next (advance (busReceiver i (answered s.cfg s.busWidth s.afterAbort i d s.dev).2
      { s with
        txIn := r, dev := (answered s.cfg s.busWidth s.afterAbort i d s.dev).1,
        trace := s.trace ++
          [.tx (descriptor s.cfg s.busWidth i) (.ok (answered s.cfg s.busWidth s.afterAbort i d s.dev).2)] })) := by
  rw [step_issue hrun hst hi, beforeIssue_of_ne hb, exec_bus (opOf_busCommand hi) hin, transact_ok htx hfail]
  simp only [descriptor_w, answered]

/-- The commands that receive nothing: WREN, QPIEN, SRP, PP and the erases (30_encoding R110). -/
def isSilent : Instr → Bool
  | .wren | .qpien | .srp | .pp _ _ | .ser _ | .be32k _ | .be64k _ | .cer => true
  | .rdid | .rdsr | .frqio _ _ | .init | .eraseChip | .eraseSector | .eraseBlock32K | .eraseBlock64K | .read
  | .program =>
      false

theorem silent_receives_nothing {i : Instr} (h : isSilent i = true) (c : Config) (w : Width) :
    busReceiver i = recvNothing ∧ (descriptor c w i).rx = 0 := by
  cases i with
  | wren | qpien | srp | pp | ser | be32k | be64k | cer => exact ⟨rfl, rfl⟩
  | rdid | rdsr | frqio | init | eraseChip | eraseSector | eraseBlock32K | eraseBlock64K | read | program => cases h

/-- Such a command changes the device, takes its draw, and adds one event. -/
theorem step_silent {s : State} {op : Op} {pc : Nat} {b : BusStmt} {i : Instr} {d : TxDraw} {r : List TxDraw}
    (hrun : Running s op pc) (hst : (ruleOf op)[pc]? = some (.issue b)) (hi : busCommand op b s = .ok i)
    (hsilent : isSilent i = true) (hin : busInside i) (htx : s.txIn = d :: r) (hfail : d.fail = none) :
    step s = .next
      { s with
        txIn := r, dev := (answered s.cfg s.busWidth s.afterAbort i d s.dev).1, seq := .at op (nextPc op pc),
        trace := s.trace ++ [.tx (descriptor s.cfg s.busWidth i) (.ok [])] } := by
  have hb : b ≠ .rdsr := fun h => by
    rw [(busCommand_rdsr_iff hi).mp h] at hsilent
    cases hsilent
  obtain ⟨hrecv, hrx⟩ := silent_receives_nothing hsilent s.cfg s.busWidth
  have hnil : (answered s.cfg s.busWidth s.afterAbort i d s.dev).2 = [] := by
    simp only [answered, hrx]
    rfl
  rw [step_issue_ok hrun hst hb hi hin htx hfail, hrecv, hnil]
  obtain ⟨_, _, _, hseq⟩ := hrun
  simp [advance, recvNothing, hseq, seqAfter]

/-! ### A wait that ends -/

/-- `WaitIdle` with `j` busy answers and an idle one (40_bus_primitives R145). -/
theorem runSteps_waitIdle {s : State} {op : Op} {pc j : Nat} {bs : List Bool} (hrun : Running s op pc)
    (hst : (ruleOf op)[pc]? = some .waitIdle) (hnone : s.idleCount = none)
    (hbound : ∀ k, s.cfg.maxIdleQueries = some k → j < k) (hin : s.busyIn = List.replicate j true ++ false :: bs) :
    runSteps (j + 1) s = .next
      { s with
        busyIn := bs, transportBusy := false, seq := .at op (nextPc op pc),
        trace := s.trace ++ List.replicate j (.busy true) ++ [.busy false] } :=
  (waitIdleIsBoundedOnlyByItsParameter s op pc j bs hrun hst hnone hbound).1 hin

/-! ### The status poll -/

/-- The event of a status read that shows `x` (46_status_poll R250). -/
def statusEvent (c : Config) (w : Width) (x : Byte) : Event := .tx ⟨w, c.opRdsr, none, none, 0, [], 1⟩ (.ok [x])

theorem nextPc_of_statusRead {op : Op} {pc : Nat} (h : (ruleOf op)[pc]? = some (.issue .rdsr)) :
    nextPc op pc = pc + 1 := by
  have hlt : pc < (ruleOf op).length := (List.getElem?_eq_some_iff.mp h).1
  cases op <;> simp only [ruleOf, eraseTail, List.length_cons, List.length_nil] at hlt h
  all_goals
    interval_cases pc <;> cases h <;> rfl

section
variable {s : State} {op : Op} {pc : Nat} (hrun : Running s op pc) (hst : (ruleOf op)[pc]? = some (.issue .rdsr))
  (htest : (ruleOf op)[pc + 1]? = some .pollTest) {d : TxDraw} {r : List TxDraw} (htx : s.txIn = d :: r)
  (hfail : d.fail = none) {dev : Device} {x : Byte}
  (hread : answered s.cfg s.busWidth s.afterAbort .rdsr d s.dev = (dev, [x]))
include hrun hst htx hfail hread

/-- A status read starts the poll, if it is its first, and leaves the byte to the test (46_status_poll R250). -/
theorem step_statusRead :
    step s = .next
      { s with
        txIn := r, dev := dev, srByte := some x, pollCount := some (s.pollCount.getD 0),
        afterAbort := s.afterAbort && wip x, seq := .at op (pc + 1),
        trace := s.trace ++ [statusEvent s.cfg s.busWidth x] } := by
  rw [step_issue hrun hst rfl, exec_bus (i := .rdsr) rfl trivial, beforeIssue_rdsr,
    transact_ok (s := beginPoll s) htx hfail]
  simp only [answered, Prod.mk.injEq] at hread
  obtain ⟨hdev, hrx⟩ := hread
  simp only [descriptor_w, beginPoll, hdev, hrx]
  obtain ⟨_, _, _, hseq⟩ := hrun
  simp only [advance, busReceiver, recvStatus, hseq, seqAfter, nextPc_of_statusRead hst]
  rfl

include htest

/-- A status read that shows WIP = 1 is counted and read again (46_status_poll R251). -/
theorem runSteps_busyRead (hwip : wip x = true)
    (hbelow : ∀ k, s.cfg.maxPolls = some k → s.pollCount.getD 0 + 1 < k) :
    runSteps 2 s = .next
      { s with
        txIn := r, dev := dev, srByte := some x, pollCount := some (s.pollCount.getD 0 + 1),
        trace := s.trace ++ [statusEvent s.cfg s.busWidth x] } := by
  rw [runSteps_succ (step_statusRead hrun hst htx hfail hread), runSteps_one]
  obtain ⟨hvalid, hwait, hbusy, hseq⟩ := hrun
  obtain ⟨_, hagain, _⟩ := pollTestsBitZeroAlone
    { s with
      txIn := r, dev := dev, srByte := some x, pollCount := some (s.pollCount.getD 0),
      afterAbort := s.afterAbort && wip x, seq := .at op (pc + 1),
      trace := s.trace ++ [statusEvent s.cfg s.busWidth x] } op pc _ x ⟨hvalid, hwait, hbusy, rfl⟩ htest rfl rfl
  rw [hagain hwip hbelow]
  simp [hwip, hseq]

/-- A status read that shows WIP = 0 ends the poll, and what an abort left open (46_status_poll R251, 70_reset R301). -/
theorem runSteps_idleRead (hwip : wip x = false) :
    runSteps 2 s = .next
      { s with
        txIn := r, dev := dev, srByte := none, pollCount := none, afterAbort := false,
        seq := .at op (nextPc op (pc + 1)), trace := s.trace ++ [statusEvent s.cfg s.busWidth x] } := by
  rw [runSteps_succ (step_statusRead hrun hst htx hfail hread), runSteps_one]
  obtain ⟨hvalid, hwait, hbusy, _⟩ := hrun
  obtain ⟨hclear, _⟩ := pollTestsBitZeroAlone
    { s with
      txIn := r, dev := dev, srByte := some x, pollCount := some (s.pollCount.getD 0),
      afterAbort := s.afterAbort && wip x, seq := .at op (pc + 1),
      trace := s.trace ++ [statusEvent s.cfg s.busWidth x] } op pc _ x ⟨hvalid, hwait, hbusy, rfl⟩ htest rfl rfl
  rw [hclear hwip]
  simp [hwip]

end

/-- Status reads in a row that show WIP = 1: the draws, the bytes read, the device before and after. -/
inductive BusyReads (c : Config) (w : Width) (aborted : Bool) : Device → List TxDraw → List Byte → Device → Prop where
  | nil (dev : Device) : BusyReads c w aborted dev [] [] dev
  | cons {dev dev' last : Device} {d : TxDraw} {ds : List TxDraw} {x : Byte} {xs : List Byte} (hfail : d.fail = none)
      (hread : answered c w aborted .rdsr d dev = (dev', [x])) (hwip : wip x = true)
      (tail : BusyReads c w aborted dev' ds xs last) : BusyReads c w aborted dev (d :: ds) (x :: xs) last

theorem BusyReads.length {c : Config} {w : Width} {aborted : Bool} {dev last : Device} {ds : List TxDraw}
    {xs : List Byte} (h : BusyReads c w aborted dev ds xs last) : xs.length = ds.length := by
  induction h with
  | nil => rfl
  | cons _ _ _ _ ih => rw [List.length_cons, List.length_cons, ih]

/-- Draws that carry the bytes read make such a row, whatever the device is. -/
theorem busyReads_of_answers (c : Config) (w : Width) (aborted : Bool) (dev : Device) {ds : List TxDraw}
    {xs : List Byte} (hfail : ∀ d ∈ ds, d.fail = none) (hans : ds.map (fun d => d.answer) = xs.map (fun x => some [x]))
    (hwip : ∀ x ∈ xs, wip x = true) : ∃ last, BusyReads c w aborted dev ds xs last := by
  induction ds generalizing dev xs with
  | nil =>
    obtain rfl : xs = [] := by simpa using hans.symm
    exact ⟨dev, .nil dev⟩
  | cons d ds ih =>
    obtain _ | ⟨x, xs⟩ := xs
    · simp at hans
    rw [List.map_cons, List.map_cons, List.cons.injEq] at hans
    rw [List.forall_mem_cons] at hfail hwip
    obtain ⟨last, hrest⟩ := ih (answered c w aborted .rdsr d dev).1 hfail.2 hans.2 hwip.2
    exact ⟨last, .cons hfail.1 (answered_eq hans.1 rfl) hwip.1 hrest⟩

/-- A busy device that the transport answers for truly: it shows its status register each time, and stays as it is. -/
theorem busyReads_of_busy {c : Config} {w : Width} {aborted : Bool} {dev : Device} {ds : List TxDraw}
    (hw : w = modeWidth dev.mode) (hbusy : wip dev.sr = true) (hclean : ∀ d ∈ ds, CleanDraw d)
    (hdone : ∀ d ∈ ds, d.done = false) :
    BusyReads c w aborted dev ds (List.replicate ds.length dev.sr) dev := by
  induction ds with
  | nil => exact .nil dev
  | cons d ds ih =>
    rw [List.forall_mem_cons] at hclean hdone
    refine .cons hclean.1.1 ?_ hbusy (ih hclean.2 hdone.2)
    rw [answered_understood rfl hclean.1 hw (.inl rfl), hdone.1, settle_false]
    rfl

/-- Below the bound such reads leave the operation at the head of its poll (46_status_poll R250, R252). -/
theorem runSteps_busyReads {s : State} {op : Op} {pc : Nat} (hrun : Running s op pc)
    (hst : (ruleOf op)[pc]? = some (.issue .rdsr)) (htest : (ruleOf op)[pc + 1]? = some .pollTest) {ds r : List TxDraw}
    (htx : s.txIn = ds ++ r) {xs : List Byte} {last : Device}
    (hreads : BusyReads s.cfg s.busWidth s.afterAbort s.dev ds xs last)
    (hbound : ∀ k, s.cfg.maxPolls = some k → s.pollCount.getD 0 + ds.length < k) :
    ∃ (sr : Option Byte) (c : Option Nat), c.getD 0 = s.pollCount.getD 0 + ds.length ∧
      runSteps (2 * ds.length) s = .next
        { s with
          txIn := r, dev := last, srByte := sr, pollCount := c,
          trace := s.trace ++ xs.map (statusEvent s.cfg s.busWidth) } := by
  generalize hdev : s.dev = dev, hcfg : s.cfg = cfg, hw : s.busWidth = w, hmark : s.afterAbort = mark at hreads
  induction hreads generalizing s with
  | nil dev =>
    subst hdev hcfg hw hmark
    exact ⟨s.srByte, s.pollCount, rfl, by simp [runSteps, ← show s.txIn = r from htx]⟩
  | @cons dev dev' last d ds x xs hfail hread hwip _ ih =>
    subst hdev hcfg hw hmark
    rw [List.length_cons] at hbound ⊢
    have hbelow (k : Nat) (hk : s.cfg.maxPolls = some k) : s.pollCount.getD 0 + 1 < k := by
      have := hbound k hk
      omega
    have hfirst := runSteps_busyRead (r := ds ++ r) hrun hst htest htx hfail hread hwip hbelow
    obtain ⟨sr, c, hc, hrest⟩ := ih
      (s := { s with
        txIn := ds ++ r, dev := dev', srByte := some x, pollCount := some (s.pollCount.getD 0 + 1),
        trace := s.trace ++ [statusEvent s.cfg s.busWidth x] })
      hrun rfl (fun k hk => by have := hbound k hk; simp only [Option.getD_some]; omega) rfl rfl rfl rfl
    refine ⟨sr, c, by simp only [hc, Option.getD_some]; omega, ?_⟩
    rw [Nat.mul_succ, Nat.add_comm, runSteps_add hfirst, hrest]
    simp

/-- The poll from its first status read to the first that shows WIP = 0 (46_status_poll R250, R251). -/
theorem runSteps_poll {s : State} {op : Op} {pc : Nat} (hrun : Running s op pc)
    (hst : (ruleOf op)[pc]? = some (.issue .rdsr)) (htest : (ruleOf op)[pc + 1]? = some .pollTest)
    (hsr : s.srByte = none) (hcount : s.pollCount = none) {ds r : List TxDraw} {dz : TxDraw}
    (htx : s.txIn = ds ++ dz :: r) {xs : List Byte} {last dev : Device} {z : Byte}
    (hreads : BusyReads s.cfg s.busWidth s.afterAbort s.dev ds xs last) (hfail : dz.fail = none)
    (hread : answered s.cfg s.busWidth s.afterAbort .rdsr dz last = (dev, [z])) (hwip : wip z = false)
    (hbound : ∀ k, s.cfg.maxPolls = some k → ds.length < k) :
    runSteps (2 * ds.length + 2) s = .next
      { s with
        txIn := r, dev := dev, afterAbort := false, seq := .at op (nextPc op (pc + 1)),
        trace := s.trace ++ xs.map (statusEvent s.cfg s.busWidth) ++ [statusEvent s.cfg s.busWidth z] } := by
  obtain ⟨sr, c, _, hbusy⟩ := runSteps_busyReads hrun hst htest htx hreads (by simpa [hcount] using hbound)
  rw [runSteps_add hbusy, runSteps_idleRead (s := { s with
    txIn := dz :: r, dev := last, srByte := sr, pollCount := c, trace := _ }) hrun hst htest rfl hfail hread hwip]
  simp [hsr, hcount]

/-- Status reads are bus events (20_memory R92). -/
theorem busEvents_statusEvents (c : Config) (w : Width) (xs : List Byte) :
    busEvents (xs.map (statusEvent c w)) = xs.map (statusEvent c w) :=
  busEvents_of_all (by simp [statusEvent, isBusEvent])

/-- Settles O45: each read shows what its draw carries (`busyReads_of_answers`), and no bound stops them. -/
theorem unboundedPollNeverEnds : Obligations.UnboundedPollNeverEnds := by
  intro ds r s op pc hrun hmax hst htest htx hdraws
  have hans : ds.map (fun d => d.answer) = (ds.map fun d => (d.answer.getD []).headD 0).map (fun x => some [x]) := by
    rw [List.map_map]
    refine List.map_congr_left fun d hd => ?_
    obtain ⟨_, b, hb, _⟩ := hdraws d hd
    simp [hb]
  have hwip : ∀ x ∈ ds.map fun d => (d.answer.getD []).headD 0, wip x = true := by
    intro x hx
    obtain ⟨d, hd, rfl⟩ := List.mem_map.mp hx
    obtain ⟨_, b, hb, hbit⟩ := hdraws d hd
    rw [hb]
    exact hbit
  obtain ⟨last, hreads⟩ := busyReads_of_answers s.cfg s.busWidth s.afterAbort s.dev (fun d hd => (hdraws d hd).1)
    hans hwip
  obtain ⟨sr, c, hc, hsteps⟩ := runSteps_busyReads hrun hst htest htx hreads fun k hk => by rw [hmax] at hk; cases hk
  obtain ⟨_, _, hbusy, hseq⟩ := hrun
  refine ⟨_, hsteps, hseq, hbusy, rfl, rfl, rfl, hc, ?_⟩
  rw [busEvents_append, List.length_append, busEvents_statusEvents, List.length_map, List.length_map]

end Sys2Proof.Machine
end

section
/-! PROOFS. The stages of a running operation: where SEQ stands, the draws to come, the device and the trace so far,
with one rule for each kind of statement. -/
namespace Sys2Proof.Machine
open Sys2Proof

/-- The run of an operation that has come to statement `pc`, with `tx` still to be drawn. -/
def stage (s : State) (op : Op) (pc : Nat) (tx : List TxDraw) (dev : Device) (trace : List Event) : State :=
  { s with seq := .at op pc, txIn := tx, dev := dev, trace := trace }

/-- A state in which an operation runs and the host waits (70_reset R304). -/
abbrev Going (s : State) : Prop := s.cfg.Valid ∧ hostWaits s.host = true ∧ s.ctrlBusy = true

theorem Going.running {s : State} (h : Going s) (op : Op) (pc : Nat) (tx : List TxDraw) (dev : Device)
    (trace : List Event) : Running (stage s op pc tx dev trace) op pc := by
  obtain ⟨hvalid, hwait, hbusy⟩ := h
  exact ⟨hvalid, hwait, hbusy, rfl⟩

/-- Two runs in a row. -/
theorem runSteps_trans {s t u : State} {m n : Nat} (h : runSteps m s = .next t) (g : runSteps n t = .next u) :
    runSteps (m + n) s = .next u := by
  rw [runSteps_add h, g]

/-- The step of a CMD write that is accepted (30_encoding R102). -/
theorem step_start {s : State} {r : List HostEvent} {b : Byte} {i : Instr} {op : Op} (hc : s.cfg.Valid)
    (hh : s.host = .act (.writeCmd b) :: r) (hb : s.ctrlBusy = false) (hd : decodeCmd b = .ok i)
    (hop : opOf i = some op) (ha : acceptedIn op s.lifecycle = true) :
    step s = .next (stage { s with host := r, cmd := b, ctrlBusy := true } op 0 s.txIn s.dev s.trace) := by
  rw [step_command hc hh hb hd, exec_op hop]
  exact issueOp_accepted hb ha

section
variable {s : State} (h : Going s) {op : Op} {pc : Nat} {dev : Device} {tr : List Event}
include h

/-- `SetWidth(w)` (40_bus_primitives R147). -/
theorem stage_setWidth {w : Width} {tx : List TxDraw} (hst : (ruleOf op)[pc]? = some (.setWidth w)) :
    step (stage s op pc tx dev tr)
      = .next (stage { s with busWidth := w } op (pc + 1) tx dev (tr ++ [.width w])) := by
  obtain ⟨hset, _⟩ := setWidthSwitchesTheBus
  exact hset _ op pc w (h.running ..) hst

/-- A command that receives nothing. -/
theorem stage_silent {b : BusStmt} {i : Instr} {d : TxDraw} {r : List TxDraw}
    (hst : (ruleOf op)[pc]? = some (.issue b)) (hi : busCommand op b s = .ok i) (hsilent : isSilent i = true)
    (hin : busInside i) (hfail : d.fail = none) :
    step (stage s op pc (d :: r) dev tr) = .next (stage s op (nextPc op pc) r
      (answered s.cfg s.busWidth s.afterAbort i d dev).1 (tr ++ [.tx (descriptor s.cfg s.busWidth i) (.ok [])])) := by
  have hsame : busCommand op b (stage s op pc (d :: r) dev tr) = busCommand op b s := by cases b <;> rfl
  exact step_silent (h.running ..) hst (hsame.trans hi) hsilent hin rfl hfail

/-- A `WaitIdle` that ends (40_bus_primitives R145). -/
theorem stage_waitIdle {j : Nat} {bs : List Bool} {tx : List TxDraw} (hst : (ruleOf op)[pc]? = some .waitIdle)
    (hnone : s.idleCount = none) (hbound : ∀ k, s.cfg.maxIdleQueries = some k → j < k)
    (hin : s.busyIn = List.replicate j true ++ false :: bs) :
    runSteps (j + 1) (stage s op pc tx dev tr) = .next (stage { s with busyIn := bs, transportBusy := false } op
      (nextPc op pc) tx dev (tr ++ List.replicate j (.busy true) ++ [.busy false])) :=
  runSteps_waitIdle (h.running ..) hst hnone hbound hin

/-- A `PollWip` that ends (46_status_poll R250). -/
theorem stage_poll (hst : (ruleOf op)[pc]? = some (.issue .rdsr)) (htest : (ruleOf op)[pc + 1]? = some .pollTest)
    (hsr : s.srByte = none) (hcount : s.pollCount = none) {ds r : List TxDraw} {dz : TxDraw} {xs : List Byte}
    {last after : Device} {z : Byte} (hreads : BusyReads s.cfg s.busWidth s.afterAbort dev ds xs last)
    (hfail : dz.fail = none) (hread : answered s.cfg s.busWidth s.afterAbort .rdsr dz last = (after, [z]))
    (hwip : wip z = false) (hbound : ∀ k, s.cfg.maxPolls = some k → ds.length < k) :
    runSteps (2 * ds.length + 2) (stage s op pc (ds ++ dz :: r) dev tr)
      = .next (stage { s with afterAbort := false } op (nextPc op (pc + 1)) r after
          (tr ++ xs.map (statusEvent s.cfg s.busWidth) ++ [statusEvent s.cfg s.busWidth z])) :=
  runSteps_poll (h.running ..) hst htest hsr hcount rfl hreads hfail hread hwip hbound

/-- The statement that a stage comes to next. -/
theorem step_stage {tx : List TxDraw} {st : Stmt} (hst : (ruleOf op)[pc]? = some st) :
    step (stage s op pc tx dev tr) = runStmt op pc st (stage s op pc tx dev tr) := by
  obtain ⟨hvalid, hwait, hbusy, hseq⟩ := h.running op pc tx dev tr
  exact step_at hvalid hwait hbusy hseq hst

/-- The end of a rule (30_encoding R102). -/
theorem stage_finish {tx : List TxDraw} (hst : (ruleOf op)[pc]? = some .finish) :
    step (stage s op pc tx dev tr) = .next (stepFinish (stage s op pc tx dev tr)) :=
  step_stage h hst

end

end Sys2Proof.Machine
end

section
/-! PROOFS. INIT as a whole (41_init R160, R172). -/
namespace Sys2Proof.Machine
open Sys2Proof

/-- RDID of INIT: the bytes received are the identity that the gate compares (41_init R162). -/
theorem stage_rdid {s : State} (h : Going s) {d : TxDraw} {r : List TxDraw} {dev : Device} {tr : List Event}
    {id : Ident} (hfail : d.fail = none)
    (hid : (answered s.cfg s.busWidth s.afterAbort .rdid d dev).2 = identBytes id) :
    step (stage s .init 1 (d :: r) dev tr) = .next (stage { s with idBytes := some id } .init 2 r
      (answered s.cfg s.busWidth s.afterAbort .rdid d dev).1
      (tr ++ [.tx (descriptor s.cfg s.busWidth .rdid) (.ok (identBytes id))])) := by
  have hstep := step_issue_ok (b := .rdid) (h.running .init 1 (d :: r) dev tr) rfl (by decide) rfl trivial rfl hfail
  simp only [stage] at hstep hid ⊢
  rw [hstep, hid]
  rfl

/-- The identity gate lets EXPECTED_ID pass (41_init R163). -/
theorem stage_checkId {s : State} (h : Going s) {tx : List TxDraw} {dev : Device} {tr : List Event}
    (hid : s.idBytes = some s.cfg.expectedId) :
    step (stage s .init 3 tx dev tr) = .next (stage s .init 4 tx dev tr) := by
  rw [step_stage h rfl]
  exact stepCheckId_match hid rfl

/-- The end of INIT (41_init R168). -/
theorem stage_finishInit {s : State} (h : Going s) {tx : List TxDraw} {dev : Device} {tr : List Event} :
    step (stage s .init 11 tx dev tr) = .next (stepFinishInit (stage s .init 11 tx dev tr)) :=
  step_stage (st := .finishInit) h rfl

/-- The device at the head of INIT's poll: RDID, WREN and QPIEN at width 1, WREN and SRP at width 4 (41_init R160). -/
def initDevice (c : Config) (aborted : Bool) (d1 d2 d3 d4 d5 : TxDraw) (dev : Device) : Device :=
  let identified := (answered c .w1 aborted .rdid d1 dev).1
  let enabled := (answered c .w1 aborted .wren d2 identified).1
  let quad := (answered c .w1 aborted .qpien d3 enabled).1
  let again := (answered c .w4 aborted .wren d4 quad).1
  (answered c .w4 aborted .srp d5 again).1

/-- The events up to there, with `b` busy answers (41_init R172). -/
def initEvents (c : Config) (b : Nat) : List Event :=
  [.width .w1, .tx (descriptor c .w1 .rdid) (.ok (identBytes c.expectedId))] ++ List.replicate b (.busy true) ++
    [.busy false, .tx (descriptor c .w1 .wren) (.ok []), .tx (descriptor c .w1 .qpien) (.ok []), .width .w4,
     .tx (descriptor c .w4 .wren) (.ok []), .tx (descriptor c .w4 .srp) (.ok [])]

/-- The registers of a running INIT: the width, ID_BYTES, and the busy answers to come. -/
def initBase (s : State) (r : List HostEvent) (w : Width) (id : Option Ident) (busyIn : List Bool) (busy : Bool) :
    State :=
  { s with
    host := r, cmd := 0x01, ctrlBusy := true, busWidth := w, idBytes := id, busyIn := busyIn, transportBusy := busy }

/-- INIT from its CMD write to the head of its poll. -/
theorem runSteps_init_to_poll {s : State} {r : List HostEvent} {b : Nat} {bs : List Bool} {d1 d2 d3 d4 d5 : TxDraw}
    {tx : List TxDraw} (hinv : Inv s) (hc : s.cfg.Valid) (hfree : s.ctrlBusy = false) (hl : s.lifecycle ≠ .ready)
    (hh : s.host = .act (.writeCmd 0x01) :: r) (hwait : hostWaits r = true)
    (hbusyIn : s.busyIn = List.replicate b true ++ false :: bs) (hbound : ∀ k, s.cfg.maxIdleQueries = some k → b < k)
    (htx : s.txIn = d1 :: d2 :: d3 :: d4 :: d5 :: tx) (hfail : ∀ d ∈ [d1, d2, d3, d4, d5], d.fail = none)
    (hid : (answered s.cfg .w1 s.afterAbort .rdid d1 s.dev).2 = identBytes s.cfg.expectedId) :
    runSteps (10 + b) s = .next (stage (initBase s r .w4 (some s.cfg.expectedId) bs false) .init 9 tx
      (initDevice s.cfg s.afterAbort d1 d2 d3 d4 d5 s.dev) (s.trace ++ initEvents s.cfg b)) := by
  obtain ⟨_, _, _, hidle, hno, _⟩ := hinv.sequencer.idle hfree
  simp only [List.forall_mem_cons, List.not_mem_nil, false_imp_iff, implies_true, and_true] at hfail
  obtain ⟨hf1, hf2, hf3, hf4, hf5⟩ := hfail
  have hgo (w : Width) (id : Option Ident) (q : List Bool) (t : Bool) : Going (initBase s r w id q t) :=
    ⟨hc, hwait, rfl⟩
  have h1 : runSteps 1 s = .next (stage (initBase s r s.busWidth s.idBytes s.busyIn s.transportBusy) .init 0
      (d1 :: d2 :: d3 :: d4 :: d5 :: tx) s.dev s.trace) := by
    rw [runSteps_one, ← htx]
    exact step_start hc hh hfree (i := .init) rfl rfl (by simpa [acceptedIn] using hl)
  have h2 : runSteps 2 s = .next (stage (initBase s r .w1 s.idBytes s.busyIn s.transportBusy) .init 1 _ _ _) :=
    runSteps_snoc h1 (stage_setWidth (hgo _ _ _ _) rfl)
  have h3 : runSteps 3 s
      = .next (stage (initBase s r .w1 (some s.cfg.expectedId) s.busyIn s.transportBusy) .init 2 _ _ _) :=
    runSteps_snoc h2 (stage_rdid (hgo _ _ _ _) hf1 hid)
  have h4 : runSteps (3 + (b + 1)) s
      = .next (stage (initBase s r .w1 (some s.cfg.expectedId) bs false) .init 3 _ _ _) :=
    runSteps_trans h3 (stage_waitIdle (hgo _ _ _ _) rfl hidle hbound hbusyIn)
  have h5 := runSteps_snoc h4 (stage_checkId (hgo _ _ _ _) rfl)
  have h6 := runSteps_snoc h5 (stage_silent (b := .wren) (hgo _ _ _ _) rfl rfl rfl trivial hf2)
  have h7 := runSteps_snoc h6 (stage_silent (b := .qpien) (hgo _ _ _ _) rfl rfl rfl trivial hf3)
  have h8 : runSteps (3 + (b + 1) + 1 + 1 + 1 + 1) s
      = .next (stage (initBase s r .w4 (some s.cfg.expectedId) bs false) .init 7 _ _ _) :=
    runSteps_snoc h7 (stage_setWidth (hgo _ _ _ _) rfl)
  have h9 := runSteps_snoc h8 (stage_silent (b := .wren) (hgo _ _ _ _) rfl rfl rfl trivial hf4)
  have h10 := runSteps_snoc h9 (stage_silent (b := .srp) (hgo _ _ _ _) rfl rfl rfl trivial hf5)
  have hcount : 3 + (b + 1) + 1 + 1 + 1 + 1 + 1 + 1 = 10 + b := by omega
  rw [hcount] at h10
  rw [h10]
  simp [initEvents, initDevice, nextPc, initBase]

/-- INIT as a whole, from its CMD write to RESULT (OK, none). -/
theorem runSteps_init {s : State} {r : List HostEvent} {b : Nat} {bs : List Bool} {d1 d2 d3 d4 d5 dz : TxDraw}
    {ds rest : List TxDraw} {xs : List Byte} {last after : Device} {z : Byte} (hinv : Inv s) (hc : s.cfg.Valid)
    (hfree : s.ctrlBusy = false) (hl : s.lifecycle ≠ .ready) (hh : s.host = .act (.writeCmd 0x01) :: r)
    (hwait : hostWaits r = true) (hbusyIn : s.busyIn = List.replicate b true ++ false :: bs)
    (hbound : ∀ k, s.cfg.maxIdleQueries = some k → b < k) (htx : s.txIn = [d1, d2, d3, d4, d5] ++ ds ++ dz :: rest)
    (hfail : ∀ d ∈ [d1, d2, d3, d4, d5] ++ ds ++ [dz], d.fail = none)
    (hid : (answered s.cfg .w1 s.afterAbort .rdid d1 s.dev).2 = identBytes s.cfg.expectedId)
    (hreads : BusyReads s.cfg .w4 s.afterAbort (initDevice s.cfg s.afterAbort d1 d2 d3 d4 d5 s.dev) ds xs last)
    (hread : answered s.cfg .w4 s.afterAbort .rdsr dz last = (after, [z])) (hwip : wip z = false)
    (hpolls : ∀ k, s.cfg.maxPolls = some k → ds.length < k) :
    runSteps (13 + b + 2 * ds.length) s = .next (stepFinishInit (stage
      { initBase s r .w4 (some s.cfg.expectedId) bs false with afterAbort := false } .init 11 rest after
      (s.trace ++ initEvents s.cfg b ++ xs.map (statusEvent s.cfg .w4) ++ [statusEvent s.cfg .w4 z]))) := by
  obtain ⟨_, _, hcount, _, _, hsr, _⟩ := hinv.sequencer.idle hfree
  have hprefix := runSteps_init_to_poll (tx := ds ++ dz :: rest) hinv hc hfree hl hh hwait hbusyIn hbound
    (by simpa using htx) (fun d hd => hfail d (by simp only [List.mem_append]; exact .inl (.inl hd))) hid
  have hgo : Going (initBase s r .w4 (some s.cfg.expectedId) bs false) := ⟨hc, hwait, rfl⟩
  have hpoll := runSteps_trans hprefix
    (stage_poll (op := .init) (pc := 9) hgo rfl rfl hsr hcount hreads (hfail dz (by simp)) hread hwip hpolls)
  have hgo' : Going { initBase s r .w4 (some s.cfg.expectedId) bs false with afterAbort := false } := ⟨hc, hwait, rfl⟩
  have hend := runSteps_snoc hpoll (stage_finishInit hgo')
  have hsteps : 10 + b + (2 * ds.length + 2) + 1 = 13 + b + 2 * ds.length := by omega
  rwa [hsteps] at hend

/-- INIT's events are bus events (20_memory R92). -/
theorem busEvents_initEvents (c : Config) (b : Nat) : busEvents (initEvents c b) = initEvents c b := by
  rw [initEvents, busEvents_append, busEvents_append, busEvents_replicate_busy]
  rfl

/-- Settles O56: the run of `runSteps_init`, where the draws carry the identity and the status bytes. -/
theorem initHasTheSpecifiedTrace : Obligations.InitHasTheSpecifiedTrace := by
  intro s r b bs polls z d1 d2 d3 d4 d5 ds dz rest hinv hc hfree hl hh hwait hbusyIn hbound htx hfail hid hans hbusy hz
    hzwip hpolls
  have hid' : (answered s.cfg .w1 s.afterAbort .rdid d1 s.dev).2 = identBytes s.cfg.expectedId := answered_rx hid rfl
  obtain ⟨last, hreads⟩ := busyReads_of_answers s.cfg .w4 s.afterAbort
    (initDevice s.cfg s.afterAbort d1 d2 d3 d4 d5 s.dev)
    (fun d hd => hfail d (by simp only [List.mem_append]; exact .inl (.inr hd))) hans hbusy
  rw [hreads.length] at hpolls ⊢
  have hrun := runSteps_init hinv hc hfree hl hh hwait hbusyIn hbound htx hfail hid' hreads
    (answered_eq hz rfl) hzwip hpolls
  refine ⟨_, hrun, rfl, rfl, rfl, rfl, rfl, rfl, rfl, rfl, ?_⟩
  rw [stepFinishInit, stepFinish, busEvents_endOp]
  simp only [stage, busEvents_append, busEvents_initEvents, busEvents_statusEvents]
  simp only [initEvents, List.append_assoc]
  rfl

end Sys2Proof.Machine
end

section
/-! PROOFS. Runs with the attached device, whose answers the transport returns (20_memory section 4): INIT. -/
namespace Sys2Proof.Machine
open Sys2Proof

/-! ### The device's answers in such a run -/

/-- A transaction that an idle device understands is the command's effect. -/
theorem answered_idle {c : Config} {w : Width} {aborted : Bool} {i : Instr} {d : TxDraw} {dev : Device}
    (hi : opOf i = none) (hd : CleanDraw d) (hw : w = modeWidth dev.mode) (hidle : wip dev.sr = false) :
    answered c w aborted i d dev = busEffect c i d dev := by
  rw [answered_understood hi hd hw (.inr (by rwa [settle_of_idle hidle])), settle_of_idle hidle]

/-- The status read that finds a write completed. -/
theorem answered_rdsr_done {c : Config} {w : Width} {aborted : Bool} {d : TxDraw} {dev : Device} (hd : CleanDraw d)
    (hdone : d.done = true) (hw : w = modeWidth dev.mode) :
    answered c w aborted .rdsr d dev = (settle true dev, [(settle true dev).sr]) := by
  rw [answered_understood rfl hd hw (.inl rfl), hdone]
  rfl

theorem wip_settle_true (dev : Device) : wip (settle true dev).sr = false := by
  cases h : wip dev.sr with
  | false => rwa [settle_of_idle h]
  | true => rw [settle_true h, completeWrite_sr, wip_clearWip]

/-- The completion of a write that is neither a program nor an erase (20_memory R80). -/
theorem settle_true_other {dev : Device} (h : dev.pending = some .other ∨ dev.pending = none)
    (hwip : wip dev.sr = dev.pending.isSome) :
    settle true dev = { dev with sr := clearWip dev.sr, pending := none } := by
  rcases h with h | h <;> rw [h] at hwip
  · rw [settle_true hwip]
    simp [completeWrite, h]
  · rw [settle_of_idle hwip, clearWip_of_not_wip hwip, ← h]

/-! ### INIT -/

/-- What INIT's five commands leave of an idle device in SPI1 (41_init R160, 20_memory R72, R80, R81). -/
theorem initDevice_eq {c : Config} {aborted : Bool} {d1 d2 d3 d4 d5 : TxDraw} {dev : Device}
    (hclean : ∀ d ∈ [d1, d2, d3, d4, d5], CleanDraw d) (hmode : dev.mode = .spi1) (hidle : wip dev.sr = false) :
    initDevice c aborted d1 d2 d3 d4 d5 dev =
      { dev with
        mode := .qpi4, readParam := c.readParamValue, sr := srpStatus d5 (setWel (setWel dev.sr)),
        pending := if d5.srpSetsWip then some .other else dev.pending } := by
  simp only [List.forall_mem_cons, List.not_mem_nil, false_imp_iff, implies_true, and_true] at hclean
  obtain ⟨hd1, hd2, hd3, hd4, hd5⟩ := hclean
  have hw1 : Width.w1 = modeWidth dev.mode := by rw [hmode]; rfl
  have hrdid : answered c .w1 aborted .rdid d1 dev = busEffect c .rdid d1 dev := answered_idle rfl hd1 hw1 hidle
  have hwren : answered c .w1 aborted .wren d2 dev = busEffect c .wren d2 dev := answered_idle rfl hd2 hw1 hidle
  have hqpien : answered c .w1 aborted .qpien d3 { dev with sr := setWel dev.sr }
      = ({ dev with sr := setWel dev.sr, mode := .qpi4 }, []) :=
    (answered_idle (dev := { dev with sr := setWel dev.sr }) rfl hd3 hw1 (by simpa using hidle)).trans
      (devQpien_of_wel (wel_setWel _) d3)
  have hagain : answered c .w4 aborted .wren d4 { dev with sr := setWel dev.sr, mode := .qpi4 }
      = ({ dev with sr := setWel (setWel dev.sr), mode := .qpi4 }, []) :=
    answered_idle rfl hd4 rfl (by simpa using hidle)
  have hsrp : answered c .w4 aborted .srp d5 { dev with sr := setWel (setWel dev.sr), mode := .qpi4 } = _ :=
    (answered_idle (dev := { dev with sr := setWel (setWel dev.sr), mode := .qpi4 }) rfl hd5 rfl
      (by simpa using hidle)).trans (devSrp_of_wel (wel_setWel _) c.readParamValue d5)
  simp only [initDevice, hrdid, busEffect, devRdid, hwren, devWren, hqpien, hagain, hsrp]

theorem wip_srpStatus (d : TxDraw) (sr : Byte) : wip (srpStatus d sr) = (d.srpSetsWip || wip sr) := by
  unfold srpStatus
  cases d.srpSetsWip <;> cases d.srpClearsWel <;> simp

/-- Settles O57: the run of `runSteps_init` on the device of `initDevice_eq`, whose write in progress, if SRP started
one, leaves the array (`settle_other`). -/
theorem initReadiesTheDevice : Obligations.InitReadiesTheDevice := by
  intro s r b bs d1 d2 d3 d4 d5 ds dz rest hinv hc hfree hl hh hwait hmode hidle hident hbusyIn hbound htx hclean
    hwip hdone hdz hpolls
  have hinit := initDevice_eq (c := s.cfg) (aborted := s.afterAbort) (d1 := d1) (d2 := d2) (d3 := d3) (d4 := d4)
    (d5 := d5) (fun d hd => hclean d (by simp only [List.mem_append]; exact .inl (.inl hd))) hmode hidle
  generalize hdev : initDevice s.cfg s.afterAbort d1 d2 d3 d4 d5 s.dev = dev at hinit
  have hquad : Width.w4 = modeWidth dev.mode := by rw [hinit]; rfl
  have hfail : ∀ d ∈ [d1, d2, d3, d4, d5] ++ ds ++ [dz], d.fail = none := fun d hd => (hclean d hd).1
  have hid : (answered s.cfg .w1 s.afterAbort .rdid d1 s.dev).2 = identBytes s.cfg.expectedId := by
    rw [answered_idle rfl (hclean d1 (by simp)) (by rw [hmode]; rfl) hidle, ← hident]
    rfl
  have hreads : BusyReads s.cfg .w4 s.afterAbort dev ds (List.replicate ds.length dev.sr) dev := by
    obtain hset | rfl := hwip
    · exact busyReads_of_busy hquad (by rw [hinit, wip_srpStatus, hset]; rfl)
        (fun d hd => hclean d (by simp [hd])) hdone
    · exact .nil dev
  have hrun := runSteps_init hinv hc hfree hl hh hwait hbusyIn hbound htx hfail hid (by rwa [hdev])
    (answered_rdsr_done (hclean dz (by simp)) hdz hquad) (wip_settle_true dev) hpolls
  have hpend : s.dev.pending = none := by
    obtain ⟨_, _, _, hsome⟩ := hinv.device
    simpa [hidle] using hsome.symm
  have hend := settle_true_other (dev := dev) (by rw [hinit, hpend]; cases d5.srpSetsWip <;> simp)
    (by rw [hinit, hpend, wip_srpStatus]; cases d5.srpSetsWip <;> simp [hidle])
  rw [hend, hinit] at hrun
  exact ⟨_, hrun, rfl, rfl, rfl, rfl, rfl, wip_clearWip _, rfl, rfl, fun x => arrayByte_congr ⟨rfl, rfl, rfl⟩ x,
    rfl, rfl⟩

end Sys2Proof.Machine
end

section
/-! PROOFS. The start of an operation in READY (30_encoding R102, 40_bus_primitives R148). -/
namespace Sys2Proof.Machine
open Sys2Proof

/-- The registers of an operation that has started in READY, where the bus is at width 4. -/
def opened (s : State) (r : List HostEvent) (code : Byte) : State :=
  { s with host := r, cmd := code, ctrlBusy := true, busWidth := .w4 }

theorem step_opened {s : State} {r : List HostEvent} {code : Byte} {i : Instr} {op : Op} (hinv : Inv s)
    (hc : s.cfg.Valid) (hfree : s.ctrlBusy = false) (hl : s.lifecycle = .ready)
    (hh : s.host = .act (.writeCmd code) :: r) (hd : decodeCmd code = .ok i) (hop : opOf i = some op)
    (ha : acceptedIn op .ready = true) : step s = .next (stage (opened s r code) op 0 s.txIn s.dev s.trace) := by
  obtain ⟨_, _, _, _, _, _, hwidth⟩ := hinv.sequencer.idle hfree
  rw [step_start hc hh hfree hd hop (hl ▸ ha), opened, ← hwidth hl]

end Sys2Proof.Machine
end

section
/-! PROOFS. A write of an idle device in QPI4, from WREN to the status read that shows WIP = 0 (20_memory R72, R77, R78,
R82). -/
namespace Sys2Proof.Machine
open Sys2Proof

/-- The device after WREN (20_memory R72). -/
def enabled (dev : Device) : Device := { dev with sr := setWel dev.sr }

/-- The device after WREN and a write that it accepts (20_memory R77, R78). -/
def started (p : Pending) (dev : Device) : Device := acceptWrite p (enabled dev)

/-- The device after such a write has completed (20_memory R82). -/
def written (p : Pending) (dev : Device) : Device := completeWrite (started p dev)

theorem protectedAt_congr {d e : Device} (hchip : e.chip = d.chip) (hsr : protBits e.sr = protBits d.sr) (x : Nat) :
    protectedAt e x = protectedAt d x := by
  rw [protectedAt, protectedAt, protRanges, protRanges, hchip, hsr]

theorem protectedAt_enabled (dev : Device) (x : Nat) : protectedAt (enabled dev) x = protectedAt dev x :=
  protectedAt_congr (d := dev) (e := enabled dev) rfl (protBits_setWel _) x

theorem started_sr (p : Pending) (dev : Device) : (started p dev).sr = setWip (clearWel dev.sr) :=
  congrArg setWip clearWel_setWel

theorem protectedAt_started (p : Pending) (dev : Device) (x : Nat) :
    protectedAt (started p dev) x = protectedAt dev x :=
  protectedAt_congr (d := dev) (e := started p dev) rfl (by rw [started_sr, protBits_setWip, protBits_clearWel]) x

theorem wip_started (p : Pending) (dev : Device) : wip (started p dev).sr = true := by
  rw [started_sr, wip_setWip]

/-- A byte that the write does not concern (20_memory R82). -/
theorem deviceByte_started_out {p : Pending} {dev : Device} {x : Nat} (hnone : dev.pending = none)
    (h : pendingAt (some p) x = false) : deviceByte (started p dev) x = deviceByte dev x :=
  deviceByte_acceptWrite_out (dev := enabled dev) hnone h

/-- After the write the status register is as before, WEL apart (20_memory R77, R78, R82). -/
theorem written_sr (p : Pending) {dev : Device} (hidle : wip dev.sr = false) :
    (written p dev).sr = clearWel dev.sr := by
  rw [written, completeWrite_sr, started_sr, clearWip_setWip (by rwa [wip_clearWel])]

theorem wip_written (p : Pending) (dev : Device) : wip (written p dev).sr = false :=
  (completeWrite_status _).1

theorem clearWel_bits {sr : Byte} (hidle : wip sr = false) :
    (clearWel sr).getLsbD 0 = false ∧ (clearWel sr).getLsbD 1 = false :=
  ⟨(wip_clearWel sr).trans hidle, wel_clearWel sr⟩

section
variable {c : Config} {aborted : Bool} {dev : Device} (hmode : dev.mode = .qpi4)
include hmode

theorem answered_wren {d : TxDraw} (hd : CleanDraw d) (hidle : wip dev.sr = false) :
    answered c .w4 aborted .wren d dev = (enabled dev, []) :=
  answered_idle rfl hd (by rw [hmode]; rfl) hidle

/-- A write that the device accepts. -/
theorem answered_write {d : TxDraw} (hd : CleanDraw d) (hidle : wip dev.sr = false) {i : Instr} {p : Pending}
    (hi : opOf i = none) (heffect : busEffect c i d (enabled dev) = (acceptWrite p (enabled dev), [])) :
    (answered c .w4 aborted i d (enabled dev)).1 = started p dev := by
  rw [answered_idle hi hd (dev := enabled dev) (by rw [show (enabled dev).mode = .qpi4 from hmode]; rfl)
    ((wip_setWel _).trans hidle), heffect]
  rfl

/-- The status read that finds it completed (20_memory R82). -/
theorem answered_written {d : TxDraw} (hd : CleanDraw d) (hdone : d.done = true) (p : Pending) :
    answered c .w4 aborted .rdsr d (started p dev) = (written p dev, [(written p dev).sr]) := by
  rw [answered_rdsr_done hd hdone (by rw [show (started p dev).mode = .qpi4 from hmode]; rfl),
    settle_true (wip_started p dev)]
  rfl

end

/-- An idle device has no write in progress (10_state R41). -/
theorem DeviceInv.idle {dev : Device} (h : DeviceInv dev) (hidle : wip dev.sr = false) : dev.pending = none := by
  obtain ⟨_, _, _, hwip⟩ := h
  simpa [hidle] using hwip.symm

end Sys2Proof.Machine
end

section
/-! PROOFS. An erase as a whole (42_erase R180, R188). -/
namespace Sys2Proof.Machine
open Sys2Proof

/-! ### The device -/

/-- A region with a byte that is not protected is erased (20_memory R83). -/
theorem busEffect_erase {c : Config} {i : Instr} {g : Range} {dev : Device} (heffect : busEffect c i = devErase g)
    (hsize : 0 < g.size) (hprot : ∀ x, g.base ≤ x → x < g.base + g.size → protectedAt dev x = false) (d : TxDraw) :
    busEffect c i d (enabled dev) = (acceptWrite (.erase g) (enabled dev), []) := by
  rw [heffect]
  refine devErase_accepted (wel_setWel _) ?_ d
  rw [← Bool.not_eq_true, protectedRange_iff hsize]
  intro hall
  have hbase := hall g.base ((inRange_iff g g.base).mpr ⟨Nat.le_refl _, by omega⟩)
  rw [protectedAt_enabled, hprot g.base (Nat.le_refl _) (by omega)] at hbase
  cases hbase

/-- What the erase leaves (20_memory R78). -/
theorem deviceByte_written_erase {g : Range} {dev : Device} (hnone : dev.pending = none)
    (hprot : ∀ x, g.base ≤ x → x < g.base + g.size → protectedAt dev x = false) :
    (∀ x, g.base ≤ x → x < g.base + g.size → deviceByte (written (.erase g) dev) x = some 0xFF) ∧
      ∀ x, x < g.base ∨ g.base + g.size ≤ x → deviceByte (written (.erase g) dev) x = deviceByte dev x := by
  refine ⟨fun x hlow hhigh => deviceByte_completeErase_in rfl ((inRange_iff g x).mpr ⟨hlow, hhigh⟩) ?_, fun x hx => ?_⟩
  · rw [protectedAt_started, hprot x hlow hhigh]
  · have hout : inRange g x = false := (inRange_false_iff g x).mpr hx
    exact (deviceByte_completeErase_out rfl hout).trans (deviceByte_started_out hnone hout)

/-! ### The rule -/

/-- The erase of region `g` that an operation runs: its rule is 42_erase R180's behind the first `k0` statements, which
pass. -/
structure EraseRun (s : State) (op : Op) (k0 : Nat) (i : Instr) (g : Range) : Prop where
  rule    : (ruleOf op).drop k0 = eraseTail
  next    : ∀ pc, nextPc op pc = pc + 1
  check   : ∀ tx dev tr, runSteps k0 (stage s op 0 tx dev tr) = .next (stage s op k0 tx dev tr)
  command : eraseCommand op s = .ok i
  onBus   : opOf i = none
  silent  : isSilent i = true
  inside  : busInside i
  effect  : busEffect s.cfg i = devErase g
  size    : 0 < g.size

theorem EraseRun.stmt {s : State} {op : Op} {k0 : Nat} {i : Instr} {g : Range} (h : EraseRun s op k0 i g) (j : Nat) :
    (ruleOf op)[k0 + j]? = eraseTail[j]? := by
  rw [← h.rule, List.getElem?_drop]

/-- ERASE_CHIP has no index check (42_erase R181). -/
theorem eraseRun_chip (s : State) : EraseRun s .eraseChip 0 .cer ⟨0, 0x800000⟩ where
  rule := rfl
  next _ := rfl
  check _ _ _ := rfl
  command := rfl
  onBus := rfl
  silent := rfl
  inside := trivial
  effect := rfl
  size := by decide

/-- The unit erases check INDEX first (42_erase R182-R185). -/
theorem eraseRun_unit {s : State} (hgo : Going s) {op : Op} {n : Word} {m size : Nat} {i : Instr}
    (hm : maxIndex op = some m) (hn : s.index = some n) (hle : n.toNat ≤ m) (hpow : 2 ^ unitShift op = size)
    (hfit : m * size < capacity) (hi : eraseCommand op s = .ok i)
    (he : Erases (unitAddr op n) i (unitRange size (unitAddr op n).toNat)) (hsilent : isSilent i = true) :
    EraseRun s op 1 i ⟨n.toNat * size, size⟩ := by
  obtain ⟨haddr, htop⟩ := unitAddr_value hpow rfl hfit hle
  rw [haddr, unitRange, Nat.mul_mod_left, Nat.sub_zero] at he
  have hnext : ∀ pc, nextPc op pc = pc + 1 := by
    cases op with
    | init | eraseChip | read | program => cases hm
    | eraseSector | eraseBlock32K | eraseBlock64K => exact fun _ => rfl
  have hrule : ruleOf op = .checkIndex :: eraseTail := by
    cases op with
    | init | eraseChip | read | program => cases hm
    | eraseSector | eraseBlock32K | eraseBlock64K => rfl
  refine ⟨by rw [hrule]; rfl, hnext, fun tx dev tr => ?_, hi, he.onBus, hsilent, he.inside (by omega),
    he.effect s.cfg, by rw [← hpow]; exact Nat.two_pow_pos _⟩
  rw [runSteps_one, step_stage hgo (st := .checkIndex) (by rw [hrule]; rfl)]
  refine (stepCheckIndex_legal hm (s := stage s op 0 tx dev tr) hn hle).trans ?_
  simp only [advance, stage, seqAfter, hnext]

/-- A command of an erase. -/
theorem EraseRun.silent_step {s : State} {op : Op} {k0 : Nat} {i : Instr} {g : Range} (h : EraseRun s op k0 i g)
    (hgo : Going s) {j : Nat} {b : BusStmt} {cmd : Instr} {d : TxDraw} {r : List TxDraw} {dev dev' : Device}
    {tr : List Event} (hst : eraseTail[j]? = some (.issue b)) (hi : busCommand op b s = .ok cmd)
    (hsilent : isSilent cmd = true) (hin : busInside cmd) (hfail : d.fail = none)
    (hdev : (answered s.cfg s.busWidth s.afterAbort cmd d dev).1 = dev') :
    step (stage s op (k0 + j) (d :: r) dev tr) = .next (stage s op (k0 + (j + 1)) r dev'
      (tr ++ [.tx (descriptor s.cfg s.busWidth cmd) (.ok [])])) := by
  rw [stage_silent hgo ((h.stmt j).trans hst) hi hsilent hin hfail, h.next, hdev]
  rfl

/-- The events of the erase of R180, after its index check. -/
def eraseEvents (c : Config) (i : Instr) (b : Nat) (xs : List Byte) (z : Byte) : List Event :=
  [.tx (descriptor c .w4 .wren) (.ok [])] ++ List.replicate b (.busy true) ++
    [.busy false, .tx (descriptor c .w4 i) (.ok [])] ++ xs.map (statusEvent c .w4) ++ [statusEvent c .w4 z]

theorem busEvents_eraseEvents (c : Config) (i : Instr) (b : Nat) (xs : List Byte) (z : Byte) :
    busEvents (eraseEvents c i b xs z) = eraseEvents c i b xs z := by
  simp only [eraseEvents, busEvents_append, busEvents_replicate_busy, busEvents_statusEvents]
  rfl

/-- The registers of a running erase, with the busy answers to come. -/
def eraseBase (s : State) (r : List HostEvent) (code : Byte) (busyIn : List Bool) (busy : Bool) : State :=
  { opened s r code with busyIn := busyIn, transportBusy := busy }

/-- The erase from its WREN to the end of its poll (42_erase R180). -/
theorem runSteps_erase {s : State} {r : List HostEvent} {code : Byte} {op : Op} {k0 b : Nat} {i : Instr} {g : Range}
    {bs : List Bool} {dw de dz : TxDraw} {ds rest : List TxDraw} {tr : List Event}
    (herase : ∀ q t, EraseRun (eraseBase s r code q t) op k0 i g) (hc : s.cfg.Valid) (hwait : hostWaits r = true)
    (hcount : s.idleCount = none) (hsr : s.srByte = none) (hpoll : s.pollCount = none)
    (hbusyIn : s.busyIn = List.replicate b true ++ false :: bs) (hbound : ∀ k, s.cfg.maxIdleQueries = some k → b < k)
    (hclean : ∀ d ∈ [dw, de] ++ ds ++ [dz], CleanDraw d) (hdone : ∀ d ∈ ds, d.done = false) (hdz : dz.done = true)
    (hpolls : ∀ k, s.cfg.maxPolls = some k → ds.length < k) (hmode : s.dev.mode = .qpi4) (hidle : wip s.dev.sr = false)
    (hprot : ∀ x, g.base ≤ x → x < g.base + g.size → protectedAt s.dev x = false) :
    runSteps (5 + b + 2 * ds.length)
        (stage (eraseBase s r code s.busyIn s.transportBusy) op k0 ([dw, de] ++ ds ++ dz :: rest) s.dev tr)
      = .next (stage { eraseBase s r code bs false with afterAbort := false } op (k0 + 5) rest
          (written (.erase g) s.dev)
          (tr ++ eraseEvents s.cfg i b (List.replicate ds.length (started (.erase g) s.dev).sr)
            (written (.erase g) s.dev).sr)) := by
  have hgo (q : List Bool) (t : Bool) : Going (eraseBase s r code q t) := ⟨hc, hwait, rfl⟩
  have hrun := herase bs false
  have hdw : CleanDraw dw := hclean dw (by simp)
  have hde : CleanDraw de := hclean de (by simp)
  have hz : CleanDraw dz := hclean dz (by simp)
  have hwren : (answered s.cfg .w4 s.afterAbort .wren dw s.dev).1 = enabled s.dev := by
    rw [answered_wren hmode hdw hidle]
  have hwrite : (answered s.cfg .w4 s.afterAbort i de (enabled s.dev)).1 = started (.erase g) s.dev :=
    answered_write hmode hde hidle hrun.onBus (busEffect_erase hrun.effect hrun.size hprot de)
  have hreads := busyReads_of_busy (c := s.cfg) (w := .w4) (aborted := s.afterAbort) (dev := started (.erase g) s.dev)
    (ds := ds) (by rw [show (started (.erase g) s.dev).mode = .qpi4 from hmode]; rfl) (wip_started _ _)
    (fun d hd => hclean d (by simp [hd])) hdone
  have h1 := (herase s.busyIn s.transportBusy).silent_step (j := 0) (b := .wren) (r := de :: (ds ++ dz :: rest))
    (tr := tr) (hgo _ _) rfl rfl rfl trivial hdw.1 hwren
  have h2 : runSteps (1 + (b + 1)) _ = .next (stage (eraseBase s r code bs false) op (nextPc op (k0 + 1)) _ _ _) :=
    runSteps_trans ((runSteps_one _).trans h1) (stage_waitIdle (hgo _ _) (hrun.stmt 1) hcount hbound hbusyIn)
  rw [hrun.next] at h2
  have h3 := runSteps_snoc h2
    (hrun.silent_step (j := 2) (b := .erase) (hgo _ _) rfl hrun.command hrun.silent hrun.inside hde.1 hwrite)
  have h4 := runSteps_trans h3 (stage_poll (pc := k0 + 3) (hgo _ _) (hrun.stmt 3) (hrun.stmt 4) hsr hpoll hreads hz.1
    (answered_written hmode hz hdz _) (wip_written _ _) hpolls)
  rw [hrun.next] at h4
  have hsteps : 1 + (b + 1) + 1 + (2 * ds.length + 2) = 5 + b + 2 * ds.length := by omega
  rw [hsteps] at h4
  refine h4.trans ?_
  simp only [eraseEvents, List.append_assoc]
  rfl

theorem unitAddr_eq {op : Op} {size : Nat} (h : 2 ^ unitShift op = size) (n : Word) :
    unitAddr op n = BitVec.ofNat 24 (n.toNat * size) := by
  rw [unitAddr, Nat.shiftLeft_eq, h]

/-- The four erases of 42_erase, from their CMD byte. -/
theorem eraseRun_of_code {s : State} {op : Op} {code : Byte} {g : Range} {c : Byte} {o : Option BusAddr} {k0 : Nat}
    (h : op = .eraseChip ∧ code = 0x02 ∧ g = ⟨0, 0x800000⟩ ∧ c = s.cfg.opCer ∧ o = none ∧ k0 = 0 ∨
      (∃ n : Word, s.index = some n ∧ k0 = 1 ∧
        (op = .eraseSector ∧ code = 0x03 ∧ n.toNat ≤ 2047 ∧ g = ⟨n.toNat * 4096, 4096⟩ ∧ c = s.cfg.opSer ∨
          op = .eraseBlock32K ∧ code = 0x04 ∧ n.toNat ≤ 255 ∧ g = ⟨n.toNat * 32768, 32768⟩ ∧ c = s.cfg.opBe32k ∨
          op = .eraseBlock64K ∧ code = 0x05 ∧ n.toNat ≤ 127 ∧ g = ⟨n.toNat * 65536, 65536⟩ ∧ c = s.cfg.opBe64k) ∧
        o = some (BitVec.ofNat 24 g.base))) :
    ∃ i j, decodeCmd code = .ok j ∧ opOf j = some op ∧ acceptedIn op .ready = true ∧
      descriptor s.cfg .w4 i = ⟨.w4, c, o, none, 0, [], 0⟩ ∧
      ∀ t : State, Going t → t.index = s.index → EraseRun t op k0 i g := by
  rcases h with ⟨rfl, rfl, rfl, rfl, rfl, rfl⟩ | ⟨n, hn, rfl, hunit, rfl⟩
  · exact ⟨.cer, .eraseChip, rfl, rfl, rfl, rfl, fun t _ _ => eraseRun_chip t⟩
  rcases hunit with ⟨rfl, rfl, hle, rfl, rfl⟩ | ⟨rfl, rfl, hle, rfl, rfl⟩ | ⟨rfl, rfl, hle, rfl, rfl⟩
  · refine ⟨.ser (unitAddr .eraseSector n), .eraseSector, rfl, rfl, rfl, ?_, fun t hgo ht => ?_⟩
    · rw [unitAddr_eq (size := 4096) rfl]
      rfl
    · rw [hn] at ht
      exact eraseRun_unit hgo rfl ht hle rfl (by decide) (map_operand_eq_ok.mpr ⟨n, ht, rfl⟩) .ser rfl
  · refine ⟨.be32k (unitAddr .eraseBlock32K n), .eraseBlock32K, rfl, rfl, rfl, ?_, fun t hgo ht => ?_⟩
    · rw [unitAddr_eq (size := 32768) rfl]
      rfl
    · rw [hn] at ht
      exact eraseRun_unit hgo rfl ht hle rfl (by decide) (map_operand_eq_ok.mpr ⟨n, ht, rfl⟩) .be32k rfl
  · refine ⟨.be64k (unitAddr .eraseBlock64K n), .eraseBlock64K, rfl, rfl, rfl, ?_, fun t hgo ht => ?_⟩
    · rw [unitAddr_eq (size := 65536) rfl]
      rfl
    · rw [hn] at ht
      exact eraseRun_unit hgo rfl ht hle rfl (by decide) (map_operand_eq_ok.mpr ⟨n, ht, rfl⟩) .be64k rfl

/-- Settles O58: the run of `runSteps_erase`, and what its completed write leaves (`deviceByte_written_erase`). -/
theorem eraseErasesItsRegion : Obligations.EraseErasesItsRegion := by
  intro s r b bs dw de dz ds rest op code g c o k0 hinv hc hfree hl hcase hh hwait hmode hidle hprot hbusyIn hbound htx
    hclean hdone hdz hpolls
  obtain ⟨i, j, hdecode, hop, haccept, hdesc, hrun⟩ := eraseRun_of_code hcase
  obtain ⟨_, _, hpoll, hcount, _, hsr, _⟩ := hinv.sequencer.idle hfree
  obtain ⟨hin, hout⟩ := deviceByte_written_erase (g := g) (hinv.device.idle hidle) hprot
  obtain ⟨hwip, hwel⟩ := clearWel_bits hidle
  have hgo (q : List Bool) (t : Bool) : Going (eraseBase s r code q t) := ⟨hc, hwait, rfl⟩
  have hstart : step s = .next (stage (eraseBase s r code s.busyIn s.transportBusy) op 0 s.txIn s.dev s.trace) :=
    step_opened hinv hc hfree hl hh hdecode hop haccept
  rw [htx] at hstart
  have hcheck := runSteps_trans ((runSteps_one _).trans hstart) ((hrun _ (hgo _ _) rfl).check _ _ _)
  have herase := runSteps_trans hcheck (runSteps_erase (tr := s.trace) (fun q t => hrun _ (hgo q t) rfl) hc hwait hcount
    hsr hpoll hbusyIn hbound hclean hdone hdz hpolls hmode hidle hprot)
  have hend := runSteps_snoc herase (stage_finish (s := { eraseBase s r code bs false with afterAbort := false })
    ⟨hc, hwait, rfl⟩ ((hrun _ (hgo bs false) rfl).stmt 5))
  have hsteps : 1 + k0 + (5 + b + 2 * ds.length) + 1 = 7 + k0 + b + 2 * ds.length := by omega
  rw [hsteps] at hend
  refine ⟨_, (started (.erase g) s.dev).sr, clearWel s.dev.sr, hend, rfl, rfl, rfl, hl, rfl, hin, hout,
    wip_started _ _, hwip, hwel, written_sr _ hidle, ?_⟩
  rw [stepFinish, busEvents_endOp]
  simp only [stage, busEvents_append, busEvents_eraseEvents, written_sr _ hidle]
  simp only [eraseEvents, hdesc, List.map_replicate, List.append_assoc]
  rfl

end Sys2Proof.Machine
end

section
/-! PROOFS. The window loop of READ and of PROGRAM (10_state R33, R34; 43_chunker R207), with an idle transport. -/
namespace Sys2Proof.Machine
open Sys2Proof

theorem busEvents_flatMap {f : Window → List Event} (h : ∀ w, busEvents (f w) = f w) (ws : List Window) :
    busEvents (ws.flatMap f) = ws.flatMap f := by
  rw [busEvents, List.filter_flatMap]
  exact congrArg ws.flatMap (funext h)

/-- A running READ or PROGRAM past its CMD write: its operands, and no wait or poll under way. -/
structure Looping (s : State) (a n : Word) (p : Nat) : Prop where
  going     : Going s
  addr      : s.addr = some a
  len       : s.len = some n
  buf       : s.buf = some p
  width     : s.busWidth = .w4
  idleCount : s.idleCount = none
  pollCount : s.pollCount = none
  srByte    : s.srByte = none

/-- The registers that the loop changes: the cursor, the transport's answers, the host's memory, and what an abort left
open. -/
def loopState (s : State) (cur : Option Cursor) (busyIn : List Bool) (busy : Bool) (m : Mem) (mark : Bool) : State :=
  { s with cursor := cur, busyIn := busyIn, transportBusy := busy, hostMem := m, afterAbort := mark }

theorem Looping.keeps {s : State} {a n : Word} {p : Nat} (h : Looping s a n p) (cur : Option Cursor)
    (busyIn : List Bool) (busy : Bool) (m : Mem) (mark : Bool) :
    Looping (loopState s cur busyIn busy m mark) a n p := by
  obtain ⟨hgo, haddr, hlen, hbuf, hwidth, hidle, hpoll, hsr⟩ := h
  exact ⟨hgo, haddr, hlen, hbuf, hwidth, hidle, hpoll, hsr⟩

theorem looping_opened {s : State} {r : List HostEvent} {code : Byte} {a n : Word} {p : Nat} (hinv : Inv s)
    (hc : s.cfg.Valid) (hfree : s.ctrlBusy = false) (hwait : hostWaits r = true) (ha : s.addr = some a)
    (hn : s.len = some n) (hp : s.buf = some p) : Looping (opened s r code) a n p := by
  obtain ⟨_, _, hpoll, hidle, _, hsr, _⟩ := hinv.sequencer.idle hfree
  exact ⟨⟨hc, hwait, rfl⟩, ha, hn, hp, rfl, hidle, hpoll, hsr⟩

/-- The windows that remain, taken apart. -/
theorem drop_eq_cons {α : Type} {l xs : List α} {x : α} {k : Nat} (h : l.drop k = x :: xs) :
    l[k]? = some x ∧ l.drop (k + 1) = xs := by
  rw [← List.head?_drop, ← List.tail_drop, h]
  exact ⟨rfl, rfl⟩

section
variable {s : State} {a n : Word} {p : Nat} (h : Looping s a n p) {op : Op} {tx : List TxDraw} {dev : Device}
  {tr : List Event}
include h

/-- The range check passes (44_read R216, 45_program R231). -/
theorem Looping.checkRange (hin : a.toNat + n.toNat < capacity) (hst : (ruleOf op)[0]? = some .checkRange) :
    step (stage s op 0 tx dev tr) = .next (stage s op 1 tx dev tr) := by
  rw [step_stage h.going hst]
  refine (stepCheckRange_inside (s := stage s op 0 tx dev tr) h.addr h.len hin).trans ?_
  simp only [advance, stage, seqAfter_first]

/-- Into the body of the loop. -/
theorem Looping.enter {k : Nat} {w : Window} (hnext : NextWindow s (chunks s.cfg.chunk a.toNat n.toNat) k)
    (hw : (chunks s.cfg.chunk a.toNat n.toNat)[k]? = some w) (hst : (ruleOf op)[1]? = some .forWindow)
    (hpc : nextPc op 1 = 2) :
    step (stage s op 1 tx dev tr) = .next (stage (loopState s (some ⟨chunks s.cfg.chunk a.toNat n.toNat, k⟩)
      s.busyIn s.transportBusy s.hostMem s.afterAbort) op 2 tx dev tr) := by
  rw [step_stage h.going hst]
  refine (stepForWindow_eq (s := stage s op 1 tx dev tr) (n := n) h.addr h.len hnext).trans ?_
  have hlt : k < (chunks (stage s op 1 tx dev tr).cfg.chunk a.toNat n.toNat).length :=
    (List.getElem?_eq_some_iff.mp hw).1
  rw [if_pos hlt]
  simp only [advance, stage, seqAfter, hpc]
  rfl

/-- Past the loop, and the end of the rule. -/
theorem Looping.finish {k : Nat} (hnext : NextWindow s (chunks s.cfg.chunk a.toNat n.toNat) k)
    (hk : (chunks s.cfg.chunk a.toNat n.toNat).length ≤ k) (hst : (ruleOf op)[1]? = some .forWindow)
    (hlast : (ruleOf op)[loopExit op]? = some .finish) :
    runSteps 2 (stage s op 1 tx dev tr) = .next (stepFinish (stage (loopState s
      (some ⟨chunks s.cfg.chunk a.toNat n.toNat, k⟩) s.busyIn s.transportBusy s.hostMem s.afterAbort) op (loopExit op)
      tx dev tr)) := by
  have hexit : step (stage s op 1 tx dev tr) = .next (stage (loopState s
      (some ⟨chunks s.cfg.chunk a.toNat n.toNat, k⟩) s.busyIn s.transportBusy s.hostMem s.afterAbort) op (loopExit op)
      tx dev tr) := by
    rw [step_stage h.going hst]
    refine (stepForWindow_eq (s := stage s op 1 tx dev tr) (n := n) h.addr h.len hnext).trans ?_
    exact if_neg (Nat.not_lt.mpr hk)
  rw [runSteps_succ hexit, runSteps_one]
  exact stage_finish (h.keeps ..).going hlast

/-- A wait whose query finds the transport idle (40_bus_primitives R145). -/
theorem Looping.waitIdle {pc : Nat} {q : List Bool} (hst : (ruleOf op)[pc]? = some .waitIdle)
    (hin : s.busyIn = false :: q) :
    step (stage s op pc tx dev tr) = .next (stage (loopState s s.cursor q false s.hostMem s.afterAbort) op
      (nextPc op pc) tx dev (tr ++ [.busy false])) := by
  have hbound : ∀ k, s.cfg.maxIdleQueries = some k → 0 < k := by
    obtain ⟨⟨_, _, _, _, hmax⟩, _, _⟩ := h.going
    rintro k hk
    exact Nat.pos_of_ne_zero fun h0 => hmax (h0 ▸ hk)
  have hrun := stage_waitIdle (j := 0) (bs := q) (tx := tx) (dev := dev) (tr := tr) h.going hst h.idleCount hbound hin
  rw [runSteps_one] at hrun
  rw [hrun]
  simp only [List.replicate_zero, List.append_nil]
  rfl

end

/-- From the CMD write to the head of the loop. -/
theorem runSteps_to_loop {s : State} {r : List HostEvent} {code : Byte} {i : Instr} {op : Op} {a n : Word} {p : Nat}
    (hinv : Inv s) (hc : s.cfg.Valid) (hfree : s.ctrlBusy = false) (hl : s.lifecycle = .ready)
    (hh : s.host = .act (.writeCmd code) :: r) (hd : decodeCmd code = .ok i) (hop : opOf i = some op)
    (ha : acceptedIn op .ready = true) (hst : (ruleOf op)[0]? = some .checkRange) (h : Looping (opened s r code) a n p)
    (hin : a.toNat + n.toNat < capacity) :
    runSteps 2 s = .next (stage (loopState (opened s r code) none s.busyIn s.transportBusy s.hostMem s.afterAbort) op 1
      s.txIn s.dev s.trace) := by
  obtain ⟨_, hcursor, _, _, _, _, _⟩ := hinv.sequencer.idle hfree
  rw [runSteps_snoc ((runSteps_one s).trans (step_opened hinv hc hfree hl hh hd hop ha)) (h.checkRange hin hst),
    ← hcursor]
  rfl

end Sys2Proof.Machine
end

section
/-! PROOFS. A READ as a whole (44_read R218). -/
namespace Sys2Proof.Machine
open Sys2Proof

/-- The events of a READ's window. -/
def readEvents (c : Config) (v : Nat → Byte) (w : Window) : List Event :=
  [.busy false,
   .tx ⟨.w4, c.opFrqio, some (BitVec.ofNat 24 w.addr), some 0x00, 8, [], w.len⟩
     (.ok ((List.range w.len).map (fun j => v (w.off + j))))]

theorem busEvents_readEvents (c : Config) (v : Nat → Byte) (ws : List Window) :
    busEvents (ws.flatMap (readEvents c v)) = ws.flatMap (readEvents c v) :=
  busEvents_flatMap (fun _ => rfl) ws

/-- The FRQIO of a READ's window: its bytes are received into BUF at its offset (44_read R218). -/
theorem Looping.frqio {s : State} {a n : Word} {p : Nat} (h : Looping s a n p) {w : Window}
    (hw : currentWindow s = some w) {d : TxDraw} {tx : List TxDraw} {dev : Device} {tr : List Event} (hd : CleanDraw d)
    (hmode : dev.mode = .qpi4) (hidle : wip dev.sr = false) (hdummy : dummyAgrees dev = true)
    (hm : memWf hostDefault s.hostMem) {v : Nat → Byte}
    (hv : ∀ j, j < w.len → deviceByte dev (w.addr + j) = some (v (w.off + j))) (hpos : 0 < w.len)
    (hcap : w.addr + w.len ≤ capacity) :
    ∃ m, step (stage s .read 3 (d :: tx) dev tr) = .next (stage (loopState s s.cursor s.busyIn s.transportBusy m
        s.afterAbort) .read 1 tx dev (tr ++
          [.tx ⟨.w4, s.cfg.opFrqio, some (BitVec.ofNat 24 w.addr), some 0x00, 8, [], w.len⟩
            (.ok ((List.range w.len).map (fun j => v (w.off + j))))])) ∧
      memWf hostDefault m ∧ (∀ j, j < w.len → memGet hostDefault m (p + w.off + j) = v (w.off + j)) ∧
      ∀ x, x < p + w.off ∨ p + w.off + w.len ≤ x → memGet hostDefault m x = memGet hostDefault s.hostMem x := by
  have hanswer : ∀ j, j < w.len → deviceByte dev ((w.addr + j) % capacity) = some (v (w.off + j)) := fun j hj => by
    rw [Nat.mod_eq_of_lt (by omega), hv j hj]
  obtain ⟨m, hexec, hm', hset, hkeep⟩ := frqioReadsTheArrayIntoTheBuffer (stage s .read 3 (d :: tx) dev tr) d tx 3 w p
    (fun j => v (w.off + j)) rfl hd ⟨h.width.trans (congrArg modeWidth hmode).symm, hidle⟩ hdummy rfl hw h.buf hm
    hanswer (by omega)
  have hcommand := readCommand_eq (s := stage s .read 3 (d :: tx) dev tr) hw h.buf
  refine ⟨m, ?_, hm', hset, hkeep⟩
  rw [step_issue (b := .frqio) (h.going.running ..) rfl hcommand, beforeIssue_of_ne (by decide), hexec, ← h.width]
  rfl

/-- One window of a READ. -/
theorem runSteps_readWindow {s : State} {a n : Word} {p : Nat} (h : Looping s a n p) {k : Nat} {w : Window}
    (hnext : NextWindow s (chunks s.cfg.chunk a.toNat n.toNat) k)
    (hw : (chunks s.cfg.chunk a.toNat n.toNat)[k]? = some w) {q : List Bool} (hin : s.busyIn = false :: q) {d : TxDraw}
    {tx : List TxDraw} {dev : Device} {tr : List Event} (hd : CleanDraw d) (hmode : dev.mode = .qpi4)
    (hidle : wip dev.sr = false) (hdummy : dummyAgrees dev = true) (hm : memWf hostDefault s.hostMem) {v : Nat → Byte}
    (hv : ∀ j, j < w.len → deviceByte dev (w.addr + j) = some (v (w.off + j))) (hpos : 0 < w.len)
    (hcap : w.addr + w.len ≤ capacity) :
    ∃ m, runSteps 3 (stage s .read 1 (d :: tx) dev tr) = .next (stage (loopState s
        (some ⟨chunks s.cfg.chunk a.toNat n.toNat, k⟩) q false m s.afterAbort) .read 1 tx dev
        (tr ++ readEvents s.cfg v w)) ∧
      memWf hostDefault m ∧ (∀ j, j < w.len → memGet hostDefault m (p + w.off + j) = v (w.off + j)) ∧
      ∀ x, x < p + w.off ∨ p + w.off + w.len ≤ x → memGet hostDefault m x = memGet hostDefault s.hostMem x := by
  have henter := h.enter (op := .read) (tx := d :: tx) (dev := dev) (tr := tr) hnext hw rfl rfl
  have hwait := (h.keeps (some ⟨chunks s.cfg.chunk a.toNat n.toNat, k⟩) s.busyIn s.transportBusy s.hostMem
    s.afterAbort).waitIdle (op := .read) (pc := 2) (tx := d :: tx) (dev := dev) (tr := tr) rfl hin
  obtain ⟨m, hread, hm', hset, hkeep⟩ := (h.keeps (some ⟨chunks s.cfg.chunk a.toNat n.toNat, k⟩) q false s.hostMem
    s.afterAbort).frqio (tx := tx) (tr := tr ++ [.busy false]) hw hd hmode hidle hdummy hm hv hpos hcap
  refine ⟨m, ?_, hm', hset, hkeep⟩
  rw [runSteps_snoc (runSteps_snoc ((runSteps_one _).trans henter) hwait) hread, List.append_assoc]
  rfl

/-- The loop of a READ over the windows that remain: `rem` bytes of BUF from `off` on. -/
theorem runSteps_readWindows {s : State} {a n : Word} {p : Nat} (h : Looping s a n p) {dev : Device}
    (hmode : dev.mode = .qpi4) (hidle : wip dev.sr = false) (hdummy : dummyAgrees dev = true) {v : Nat → Byte}
    {addr off rem : Nat} {ws : List Window} (hcuts : Cuts s.cfg.chunk addr off rem ws) (hend : addr + rem ≤ capacity)
    (hv : ∀ i, i < rem → deviceByte dev (addr + i) = some (v (off + i))) {bs : List Bool} {ds rest : List TxDraw}
    (hlen : ds.length = ws.length) (hclean : ∀ d ∈ ds, CleanDraw d) {k : Nat}
    (hdrop : (chunks s.cfg.chunk a.toNat n.toNat).drop k = ws) {cur : Option Cursor} {busy : Bool} {m : Mem}
    (hnext : NextWindow (loopState s cur (List.replicate ws.length false ++ bs) busy m s.afterAbort)
      (chunks s.cfg.chunk a.toNat n.toNat) k) (hm : memWf hostDefault m) {tr : List Event} :
    ∃ cur' busy' m',
      runSteps (3 * ws.length) (stage (loopState s cur (List.replicate ws.length false ++ bs) busy m s.afterAbort)
          .read 1 (ds ++ rest) dev tr)
        = .next (stage (loopState s cur' bs busy' m' s.afterAbort) .read 1 rest dev
            (tr ++ ws.flatMap (readEvents s.cfg v))) ∧
      NextWindow (loopState s cur' bs busy' m' s.afterAbort) (chunks s.cfg.chunk a.toNat n.toNat) (k + ws.length) ∧
      (∀ i, i < rem → memGet hostDefault m' (p + off + i) = v (off + i)) ∧
      ∀ x, x < p + off ∨ p + off + rem ≤ x → memGet hostDefault m' x = memGet hostDefault m x := by
  induction hcuts generalizing ds k cur busy m tr with
  | done addr off =>
    obtain rfl : ds = [] := List.length_eq_zero_iff.mp hlen
    exact ⟨cur, busy, m, by simp [runSteps], hnext, by simp, fun _ _ => rfl⟩
  | @window addr off len rem ws hpos hblock _ _ ih =>
    obtain _ | ⟨d, ds⟩ := ds
    · cases hlen
    rw [List.forall_mem_cons] at hclean
    obtain ⟨hw, hdrop'⟩ := drop_eq_cons hdrop
    obtain ⟨m1, hfirst, hm1, hset, hkeep⟩ := runSteps_readWindow
      (h.keeps cur (List.replicate (ws.length + 1) false ++ bs) busy m s.afterAbort) hnext hw
      (q := List.replicate ws.length false ++ bs) rfl (tx := ds ++ rest) (tr := tr) hclean.1 hmode hidle hdummy hm
      (fun j hj => hv j (by simp only at hj; omega)) hpos (by simp only; omega)
    obtain ⟨cur', busy', m', hrest, hnext', hset', hkeep'⟩ := ih (by omega)
      (fun i hi => by simpa only [Nat.add_assoc] using hv (len + i) (by omega)) (Nat.succ.inj hlen) hclean.2 hdrop'
      (.inr ⟨k, rfl, rfl⟩) hm1 (tr := tr ++ readEvents s.cfg v ⟨addr, len, off⟩)
      (cur := some ⟨chunks s.cfg.chunk a.toNat n.toNat, k⟩) (busy := false)
    refine ⟨cur', busy', m', ?_, ?_, fun i hi => ?_, fun x hx => ?_⟩
    · rw [List.length_cons, Nat.mul_succ, Nat.add_comm]
      refine (runSteps_trans hfirst hrest).trans ?_
      simp only [List.flatMap_cons, List.append_assoc]
    · rw [List.length_cons, Nat.add_comm ws.length, ← Nat.add_assoc]
      exact hnext'
    · rcases Nat.lt_or_ge i len with hin | hpast
      · rw [hkeep' _ (.inl (by omega)), hset i hin]
      · have hlater := hset' (i - len) (by omega)
        rwa [show p + (off + len) + (i - len) = p + off + i by omega, show off + len + (i - len) = off + i by omega]
          at hlater
    · rw [hkeep' x (by omega), hkeep x (by simp only; omega)]
      rfl

/-- Settles O59: the windows of `runSteps_readWindows`, between the range check and the end of the rule. -/
theorem readFillsTheBuffer : Obligations.ReadFillsTheBuffer := by
  intro s r a n p bs ds rest v hinv hc hfree hl hh hwait ha hn hp hin hmode hidle hdummy hv hbusyIn htx hlen hclean
  have h := looping_opened (r := r) (code := 0x06) hinv hc hfree hwait ha hn hp
  have hstart := runSteps_to_loop hinv hc hfree hl hh (i := .read) rfl rfl rfl rfl h hin
  rw [hbusyIn, htx] at hstart
  obtain ⟨cur', busy', m', hloop, hnext, hset, hkeep⟩ := runSteps_readWindows h hmode hidle hdummy
    (cuts_chunks (a := a.toNat) (n := n.toNat) hc.1) (Nat.le_of_lt hin) (fun i hi => by simpa using hv i hi) (bs := bs)
    (rest := rest) hlen hclean (k := 0) rfl (cur := none) (busy := s.transportBusy) (.inl ⟨rfl, rfl⟩) hinv.hostForm
    (tr := s.trace)
  have hfinish := (h.keeps cur' bs busy' m' s.afterAbort).finish (op := .read) (tx := rest) (dev := s.dev)
    (tr := s.trace ++ (chunks s.cfg.chunk a.toNat n.toNat).flatMap (readEvents s.cfg v)) hnext
    (Nat.le_of_eq (Nat.zero_add _).symm) rfl rfl
  have hall := runSteps_trans (runSteps_trans hstart hloop) hfinish
  have hsteps (c : Nat) : 2 + 3 * c + 2 = 4 + 3 * c := by omega
  rw [hsteps] at hall
  simp only [Nat.add_zero, Nat.zero_add] at hset hkeep
  refine ⟨_, hall, rfl, rfl, rfl, hl, rfl, rfl, rfl, hset, hkeep, ?_⟩
  rw [stepFinish, busEvents_endOp]
  simp only [stage, busEvents_append, busEvents_readEvents]
  rfl

end Sys2Proof.Machine
end

section
/-! PROOFS. A PROGRAM as a whole (45_program R233). -/
namespace Sys2Proof.Machine
open Sys2Proof

/-! ### The device -/

/-- A device that PROGRAM finds at the head of a window: in QPI4 and idle. -/
structure ReadyDevice (dev : Device) : Prop where
  mode : dev.mode = .qpi4
  idle : wip dev.sr = false
  inv  : DeviceInv dev

theorem deviceInv_enabled {dev : Device} (h : DeviceInv dev) : DeviceInv (enabled dev) := by
  obtain ⟨hm, hc, hp, hw⟩ := h
  exact ⟨hm, hc, hp, (wip_setWel _).trans hw⟩

theorem ReadyDevice.written {dev : Device} (h : ReadyDevice dev) {p : Pending} (hp : pendingInside (some p)) :
    ReadyDevice (written p dev) where
  mode := (completeWrite_mode _).trans h.mode
  idle := wip_written p dev
  inv := deviceInv_completeWrite (deviceInv_acceptWrite (deviceInv_enabled h.inv) hp)

theorem protectedAt_written {dev : Device} (p : Pending) (hidle : wip dev.sr = false) (x : Nat) :
    protectedAt (written p dev) x = protectedAt dev x :=
  protectedAt_congr (d := dev) (e := written p dev) (completeWrite_chip _)
    (by rw [written_sr p hidle, protBits_clearWel]) x

/-- A program with a byte that is not protected is accepted (20_memory R83). -/
theorem busEffect_pp {c : Config} {a : BusAddr} {v : List Byte} {dev : Device} (hv : 0 < v.length)
    (hprot : protectedAt dev (pageWrap a.toNat 0) = false) (d : TxDraw) :
    busEffect c (.pp a v) d (enabled dev) = (acceptWrite (.program a.toNat v) (enabled dev), []) := by
  refine devPp_accepted (wel_setWel _) ?_ d
  have hfirst : ¬∀ i ∈ List.range v.length, protectedAt (enabled dev) (pageWrap a.toNat i) = true := fun hall => by
    have hzero := hall 0 (List.mem_range.mpr hv)
    rw [protectedAt_enabled, hprot] at hzero
    cases hzero
  rw [protectedProgram, List.all_eq_false.mpr (by simpa using hfirst), Bool.and_false]

/-- What a program inside one page leaves (20_memory R76, R77). -/
theorem deviceByte_written_program {dev : Device} (h : ReadyDevice dev) {a : Nat} {v : List Byte}
    (hpage : InOnePage a v.length) (hprot : ∀ i, i < v.length → protectedAt dev (a + i) = false) :
    (∀ i, i < v.length → ∀ x, deviceByte dev (a + i) = some x →
        deviceByte (written (.program a v) dev) (a + i) = some (x &&& v.getD i 0)) ∧
      ∀ x, x < a ∨ a + v.length ≤ x → deviceByte (written (.program a v) dev) x = deviceByte dev x := by
  have hnone : dev.pending = none := h.inv.idle h.idle
  have hm : memWf arrayDefault (started (.program a v) dev).array := h.inv.1
  have hpend : (started (.program a v) dev).pending = some (.program a v) := rfl
  have hwrap (i : Nat) (hi : i < v.length) : pageWrap a i = a + i := by
    simp only [InOnePage] at hpage
    exact pageWrap_of_inside (by omega)
  have hdoubt : (written (.program a v) dev).doubt = dev.doubt := by
    rw [written, completeWrite_program hpend]
    rfl
  have hdone : pendingAt (written (.program a v) dev).pending = fun _ => false := by
    rw [written, completeWrite_pending]
    rfl
  refine ⟨fun i hi x hx => ?_, fun x hx => ?_⟩
  · obtain ⟨_, hclear, rfl⟩ := deviceByte_eq_some hx
    rw [deviceByte_of (congrFun hdone _) (by rwa [hdoubt])]
    have hbyte := arrayByte_completeProgram_in hm hpend (by simp only [InOnePage] at hpage; omega) hi
      (by rw [protectedAt_started, hwrap i hi, hprot i hi])
    rw [hwrap i hi] at hbyte
    exact congrArg some hbyte
  · have hout := arrayByte_completeProgram_out hm hpend (x := x) fun j hj he => by
      rw [hwrap j hj] at he
      omega
    have hbyte : arrayByte (written (.program a v) dev) x = arrayByte dev x := hout
    simp only [deviceByte, hdone, hdoubt, hbyte, hnone]
    rfl

/-! ### A window -/

/-- The events of a PROGRAM's window, with the status byte that ends its poll (45_program R232). -/
def programEvents (c : Config) (m : Mem) (p : Nat) (z : Byte) (w : Window) : List Event :=
  [.tx ⟨.w4, c.opWren, none, none, 0, [], 0⟩ (.ok []), .busy false,
   .tx ⟨.w4, c.opPp, some (BitVec.ofNat 24 w.addr), none, 0,
     (List.range w.len).map (fun j => memGet hostDefault m (p + w.off + j)), 0⟩ (.ok []),
   .tx ⟨.w4, c.opRdsr, none, none, 0, [], 1⟩ (.ok [z])]

theorem busEvents_programEvents (c : Config) (m : Mem) (p : Nat) (z : Byte) (ws : List Window) :
    busEvents (ws.flatMap (programEvents c m p z)) = ws.flatMap (programEvents c m p z) :=
  busEvents_flatMap (fun _ => rfl) ws

/-- The device after a window of PROGRAM: BUF's bytes at its offset, programmed (40_bus_primitives R155). -/
def programmed (m : Mem) (p : Nat) (w : Window) (dev : Device) : Device :=
  written (.program w.addr (memBytes hostDefault m (p + w.off) w.len)) dev

/-- A command of the loop that receives nothing. -/
theorem Looping.silent {s : State} {a n : Word} {p : Nat} (h : Looping s a n p) {op : Op} {pc : Nat} {b : BusStmt}
    {i : Instr} {d : TxDraw} {r : List TxDraw} {dev dev' : Device} {tr : List Event}
    (hst : (ruleOf op)[pc]? = some (.issue b)) (hi : busCommand op b s = .ok i) (hsilent : isSilent i = true)
    (hin : busInside i) (hfail : d.fail = none)
    (hdev : (answered s.cfg .w4 s.afterAbort i d dev).1 = dev') :
    step (stage s op pc (d :: r) dev tr) = .next (stage s op (nextPc op pc) r dev'
      (tr ++ [.tx (descriptor s.cfg .w4 i) (.ok [])])) := by
  rw [stage_silent h.going hst hi hsilent hin hfail, h.width, hdev]

/-- The status read that ends a window's poll at once (46_status_poll R250, R251). -/
theorem Looping.poll {s : State} {a n : Word} {p : Nat} (h : Looping s a n p) {op : Op} {pc : Nat} {d : TxDraw}
    {r : List TxDraw} {dev dev' : Device} {z : Byte} {tr : List Event} (hst : (ruleOf op)[pc]? = some (.issue .rdsr))
    (htest : (ruleOf op)[pc + 1]? = some .pollTest) (hfail : d.fail = none)
    (hread : answered s.cfg .w4 s.afterAbort .rdsr d dev = (dev', [z])) (hwip : wip z = false) :
    runSteps 2 (stage s op pc (d :: r) dev tr) = .next (stage
      (loopState s s.cursor s.busyIn s.transportBusy s.hostMem false) op (nextPc op (pc + 1)) r dev'
      (tr ++ [statusEvent s.cfg .w4 z])) := by
  have hpolls : ∀ j, s.cfg.maxPolls = some j → ([] : List TxDraw).length < j := by
    obtain ⟨⟨_, _, _, hmax, _⟩, _, _⟩ := h.going
    exact fun j hj => Nat.pos_of_ne_zero fun h0 => hmax (h0 ▸ hj)
  rw [← h.width] at hread ⊢
  refine (stage_poll h.going hst htest h.srByte h.pollCount (.nil dev) hfail hread hwip hpolls).trans ?_
  simp only [List.map_nil, List.append_nil]
  rfl

/-- One window of a PROGRAM whose write has completed at its first status read. -/
theorem runSteps_programWindow {s : State} {a n : Word} {p : Nat} (h : Looping s a n p) {k : Nat} {w : Window}
    (hnext : NextWindow s (chunks s.cfg.chunk a.toNat n.toNat) k)
    (hw : (chunks s.cfg.chunk a.toNat n.toNat)[k]? = some w) {q : List Bool} (hin : s.busyIn = false :: q)
    {d1 d2 d3 : TxDraw} {tx : List TxDraw} {dev : Device} {tr : List Event}
    (hclean : ∀ d ∈ [d1, d2, d3], CleanDraw d ∧ d.done = true) (hdev : ReadyDevice dev) (hpos : 0 < w.len)
    (hpage : InOnePage w.addr w.len) (hcap : w.addr + w.len ≤ capacity) (hprot : protectedAt dev w.addr = false) :
    runSteps 6 (stage s .program 1 (d1 :: d2 :: d3 :: tx) dev tr) = .next (stage (loopState s
      (some ⟨chunks s.cfg.chunk a.toNat n.toNat, k⟩) q false s.hostMem false) .program 1 tx
      (programmed s.hostMem p w dev) (tr ++ programEvents s.cfg s.hostMem p (clearWel dev.sr) w)) := by
  simp only [List.forall_mem_cons, List.not_mem_nil, false_imp_iff, implies_true, and_true] at hclean
  obtain ⟨⟨hd1, _⟩, ⟨hd2, _⟩, hd3, hdone⟩ := hclean
  have hloop (q : List Bool) (t : Bool) :=
    h.keeps (some ⟨chunks s.cfg.chunk a.toNat n.toNat, k⟩) q t s.hostMem s.afterAbort
  have haddr : (BitVec.ofNat 24 w.addr : BusAddr).toNat = w.addr := toNat_busAddr (by omega)
  simp only [InOnePage] at hpage
  generalize hv : memBytes hostDefault s.hostMem (p + w.off) w.len = v
  have hlen : v.length = w.len := by rw [← hv, memBytes_length]
  have hwren : (answered s.cfg .w4 s.afterAbort .wren d1 dev).1 = enabled dev := by
    rw [answered_wren hdev.mode hd1 hdev.idle]
  have hpp : (answered s.cfg .w4 s.afterAbort (.pp (BitVec.ofNat 24 w.addr) v) d2 (enabled dev)).1
      = started (.program w.addr v) dev := by
    refine answered_write hdev.mode hd2 hdev.idle rfl ?_
    rw [busEffect_pp (by omega) (by rwa [haddr, pageWrap_of_inside (by omega)]), haddr]
  have hcommand : busCommand .program .pp (loopState s (some ⟨chunks s.cfg.chunk a.toNat n.toNat, k⟩) q false s.hostMem
      s.afterAbort) = .ok (.pp (BitVec.ofNat 24 w.addr) v) := by
    rw [← hv]
    exact programCommand_eq (s := loopState s _ q false s.hostMem s.afterAbort) hw (hloop _ _).buf
  have h2 := runSteps_snoc ((runSteps_one _).trans (h.enter (op := .program) (tx := d1 :: d2 :: d3 :: tx) (dev := dev)
    (tr := tr) hnext hw rfl rfl)) ((hloop _ _).silent (b := .wren) rfl rfl rfl trivial hd1.1 hwren)
  have h3 := runSteps_snoc h2 ((hloop _ _).waitIdle (op := .program) (pc := 3) rfl hin)
  have h4 := runSteps_snoc h3 ((hloop _ _).silent (b := .pp) rfl hcommand rfl ⟨by omega, by omega⟩ hd2.1 hpp)
  have h6 := runSteps_trans h4 ((hloop _ _).poll (op := .program) (pc := 5) rfl rfl hd3.1
    (answered_written hdev.mode hd3 hdone (.program w.addr v)) (wip_written _ _))
  refine h6.trans ?_
  rw [written_sr _ hdev.idle, programmed, hv, programEvents, ← memBytes, hv]
  simp only [List.append_assoc]
  rfl

/-- What a window of PROGRAM leaves of the array (45_program R233). -/
theorem deviceByte_programmed {dev : Device} (h : ReadyDevice dev) (m : Mem) (p : Nat) {w : Window}
    (hpage : InOnePage w.addr w.len) (hprot : ∀ i, i < w.len → protectedAt dev (w.addr + i) = false) :
    (∀ i, i < w.len → ∀ x, deviceByte dev (w.addr + i) = some x →
        deviceByte (programmed m p w dev) (w.addr + i) = some (x &&& memGet hostDefault m (p + w.off + i))) ∧
      ∀ x, x < w.addr ∨ w.addr + w.len ≤ x → deviceByte (programmed m p w dev) x = deviceByte dev x := by
  have hlen := memBytes_length hostDefault m (p + w.off) w.len
  obtain ⟨hin, hout⟩ := deviceByte_written_program h (a := w.addr) (v := memBytes hostDefault m (p + w.off) w.len)
    (by rwa [hlen]) (by rwa [hlen])
  rw [hlen] at hin hout
  refine ⟨fun i hi x hx => ?_, hout⟩
  rw [programmed, hin i hi x hx, memBytes_getD _ _ _ _ _ hi]

/-! ### The loop -/

/-- The loop of a PROGRAM over the windows that remain: `rem` bytes of the array from `addr` on. -/
theorem runSteps_programWindows {s : State} {a n : Word} {p : Nat} (h : Looping s a n p) {addr off rem : Nat}
    {ws : List Window} (hcuts : Cuts s.cfg.chunk addr off rem ws) (hend : addr + rem ≤ capacity) {bs : List Bool}
    {ds rest : List TxDraw} (hlen : ds.length = 3 * ws.length) (hclean : ∀ d ∈ ds, CleanDraw d ∧ d.done = true)
    {k : Nat} (hdrop : (chunks s.cfg.chunk a.toNat n.toNat).drop k = ws) {cur : Option Cursor} {busy mark : Bool}
    (hnext : NextWindow (loopState s cur (List.replicate ws.length false ++ bs) busy s.hostMem mark)
      (chunks s.cfg.chunk a.toNat n.toNat) k) {dev : Device} (hdev : ReadyDevice dev)
    (hprot : ∀ i, i < rem → protectedAt dev (addr + i) = false) {old : Nat → Byte}
    (hold : ∀ i, i < rem → deviceByte dev (addr + i) = some (old (off + i))) {z : Byte} (hz : clearWel dev.sr = z)
    {tr : List Event} :
    ∃ cur' busy' mark' dev',
      runSteps (6 * ws.length) (stage (loopState s cur (List.replicate ws.length false ++ bs) busy s.hostMem mark)
          .program 1 (ds ++ rest) dev tr)
        = .next (stage (loopState s cur' bs busy' s.hostMem mark') .program 1 rest dev'
            (tr ++ ws.flatMap (programEvents s.cfg s.hostMem p z))) ∧
      NextWindow (loopState s cur' bs busy' s.hostMem mark') (chunks s.cfg.chunk a.toNat n.toNat) (k + ws.length) ∧
      ReadyDevice dev' ∧
      (∀ i, i < rem →
        deviceByte dev' (addr + i) = some (old (off + i) &&& memGet hostDefault s.hostMem (p + off + i))) ∧
      ∀ x, x < addr ∨ addr + rem ≤ x → deviceByte dev' x = deviceByte dev x := by
  induction hcuts generalizing ds k cur busy mark dev tr with
  | done addr off =>
    obtain rfl : ds = [] := List.length_eq_zero_iff.mp hlen
    exact ⟨cur, busy, mark, dev, by simp [runSteps], hnext, hdev, by simp, fun _ _ => rfl⟩
  | @window addr off len rem ws hpos hblock _ _ ih =>
    obtain _ | ⟨d1, _ | ⟨d2, _ | ⟨d3, ds⟩⟩⟩ := ds
    iterate 3
      simp only [List.length_cons, List.length_nil] at hlen
      omega
    have hdraws : (∀ d ∈ [d1, d2, d3], CleanDraw d ∧ d.done = true) ∧ ∀ d ∈ ds, CleanDraw d ∧ d.done = true := by
      rw [← List.forall_mem_append]
      exact hclean
    obtain ⟨hw, hdrop'⟩ := drop_eq_cons hdrop
    obtain ⟨⟨_, hdvd, _⟩, _, _⟩ := h.going
    have hpage : InOnePage addr len := inOnePage_of_block (Nat.dvd_of_mod_eq_zero hdvd) hblock
    have hinside : pendingInside (some (.program addr (memBytes hostDefault s.hostMem (p + off) len))) := by
      simp only [InOnePage] at hpage
      exact ⟨by omega, by rw [memBytes_length]; omega⟩
    have hdev' : ReadyDevice (programmed s.hostMem p ⟨addr, len, off⟩ dev) := hdev.written hinside
    have hfirst := runSteps_programWindow
      (h.keeps cur (List.replicate (ws.length + 1) false ++ bs) busy s.hostMem mark) hnext hw
      (q := List.replicate ws.length false ++ bs) rfl (tx := ds ++ rest) (tr := tr) hdraws.1 hdev hpos hpage
      (by simp only; omega) (hprot 0 (by omega))
    obtain ⟨hset, hkeep⟩ := deviceByte_programmed (w := ⟨addr, len, off⟩) hdev s.hostMem p hpage
      fun i hi => hprot i (by simp only at hi; omega)
    obtain ⟨cur', busy', mark', dev', hrest, hnext', hready, hset', hkeep'⟩ := ih (by omega)
      (by simp only [List.length_cons] at hlen; omega) hdraws.2 hdrop' (.inr ⟨k, rfl, rfl⟩) hdev'
      (fun i hi => by
        rw [programmed, protectedAt_written _ hdev.idle, Nat.add_assoc, hprot _ (by omega)])
      (fun i hi => by
        rw [hkeep _ (by simp only; omega), Nat.add_assoc, Nat.add_assoc, hold _ (by omega)])
      (by rw [programmed, written_sr _ hdev.idle, clearWel_clearWel, hz])
      (tr := tr ++ programEvents s.cfg s.hostMem p z ⟨addr, len, off⟩)
      (cur := some ⟨chunks s.cfg.chunk a.toNat n.toNat, k⟩) (busy := false) (mark := false)
    refine ⟨cur', busy', mark', dev', ?_, ?_, hready, fun i hi => ?_, fun x hx => ?_⟩
    · rw [List.length_cons, Nat.mul_succ, Nat.add_comm]
      rw [hz] at hfirst
      refine (runSteps_trans hfirst hrest).trans ?_
      simp only [List.flatMap_cons, List.append_assoc]
    · rw [List.length_cons, Nat.add_comm ws.length, ← Nat.add_assoc]
      exact hnext'
    · rcases Nat.lt_or_ge i len with hin | hpast
      · rw [hkeep' _ (.inl (by omega)), hset i hin _ (hold i (by omega))]
      · have hlater := hset' (i - len) (by omega)
        rwa [show addr + len + (i - len) = addr + i by omega, show off + len + (i - len) = off + i by omega,
          show p + (off + len) + (i - len) = p + off + i by omega] at hlater
    · rw [hkeep' x (by omega), hkeep x (by simp only; omega)]

/-- Settles O60: the windows of `runSteps_programWindows`, between the range check and the end of the rule. -/
theorem programAndsTheData : Obligations.ProgramAndsTheData := by
  intro s r a n p bs ds rest old hinv hc hfree hl hh hwait ha hn hp hin hmode hidle hprot hold hbusyIn htx hlen hclean
  have h := looping_opened (r := r) (code := 0x07) hinv hc hfree hwait ha hn hp
  have hstart := runSteps_to_loop hinv hc hfree hl hh (i := .program) rfl rfl rfl rfl h hin
  rw [hbusyIn, htx] at hstart
  obtain ⟨cur', busy', mark', dev', hloop, hnext, hready, hset, hkeep⟩ := runSteps_programWindows h
    (cuts_chunks (a := a.toNat) (n := n.toNat) hc.1) (Nat.le_of_lt hin) (bs := bs) (rest := rest) hlen hclean
    (k := 0) rfl (cur := none) (busy := s.transportBusy) (mark := s.afterAbort) (.inl ⟨rfl, rfl⟩)
    ⟨hmode, hidle, hinv.device⟩ hprot (fun i hi => by simpa using hold i hi) rfl (tr := s.trace)
  have hfinish := (h.keeps cur' bs busy' s.hostMem mark').finish (op := .program) (tx := rest) (dev := dev')
    (tr := s.trace ++ (chunks s.cfg.chunk a.toNat n.toNat).flatMap
      (programEvents s.cfg s.hostMem p (clearWel s.dev.sr))) hnext (Nat.le_of_eq (Nat.zero_add _).symm) rfl rfl
  have hall := runSteps_trans (runSteps_trans hstart hloop) hfinish
  have hsteps (c : Nat) : 2 + 6 * c + 2 = 4 + 6 * c := by omega
  rw [hsteps] at hall
  simp only [Nat.add_zero, Nat.zero_add] at hset
  obtain ⟨hz0, hz1⟩ := clearWel_bits hidle
  refine ⟨_, clearWel s.dev.sr, hall, rfl, rfl, rfl, hl, rfl, rfl, rfl, hset, hkeep, hready.idle, hz0, hz1, ?_⟩
  rw [stepFinish, busEvents_endOp]
  simp only [stage, busEvents_append, busEvents_programEvents]
  rfl

end Sys2Proof.Machine
end
